-- ==== Sys2Proof/Word.lean ====
section
/-! DEFINITION. The machine's words: 32-bit registers (00_scope R8), 16-bit dimension and geometry
fields (10_state R41, R42) and bytes of the data space (10_state R58). -/

namespace Sys2Proof

/-- A register of the block, a command word or a bus address: 32 bits (00_scope R8). -/
abbrev Word := BitVec 32

/-- A dimension, stride, dilation or padding field: 16 bits unsigned (00_scope R8). -/
abbrev Half := BitVec 16

/-- One byte of the data space (10_state R58). -/
abbrev Byte := BitVec 8

end Sys2Proof
end

