-- ==== Sys2Proof/Config.lean ====
section
/-! DEFINITION. What an implementation fixes (the open parameters of 00_scope R9 and the platform's
address map of 20_memory R109), and the free values (00_scope R14 `draw`). -/

namespace Sys2Proof

/-- How a range of data-space addresses answers the engine's master port. Addresses in no range are
ordinary memory (20_memory R106). DESIGN CHOICE, safe: notes/assumptions/3.md. -/
inductive RangeKind where
  /-- Device registers, or unmapped addresses that answer without an error (93 U5). -/
  | device
  /-- A read receives a bus error response (60_exceptions R412). -/
  | errorOnRead
  /-- A write receives a bus error response (60_exceptions R412). -/
  | errorOnWrite
  /-- An access never ends (70_reset R530, 93 S9). -/
  | silent
  deriving DecidableEq, Repr

/-- One range [base, base + size) of the platform's address map. -/
structure BusRange where
  base : Nat
  size : Nat
  kind : RangeKind
  deriving DecidableEq, Repr

/-- The open parameters a model takes as arguments (00_scope R9, 93 section 4), and the platform's
address map. No step changes them. DESIGN CHOICE: notes/assumptions/2.md. -/
structure Params where
  /-- ENGINE_BASE: bus address of register offset 0x000. -/
  engineBase : Word
  /-- IRQ_LINE: the platform interrupt input the `irq` output is wired to (60_exceptions R421). -/
  irqLine : Nat
  /-- VL8: largest lane count granted per step for 8-bit input lanes. -/
  vl8 : Byte
  /-- VL16: the same for 16-bit input lanes. -/
  vl16 : Byte
  /-- VLB: largest byte count MEMCPY grants per step. -/
  vlb : Byte
  /-- COHERENT: whether master-port accesses are coherent with the host's caches. -/
  coherent : Bool
  /-- Which data-space addresses are not ordinary memory, or do not answer with data. -/
  busMap : List BusRange
  deriving DecidableEq, Repr

/-- The parameters `State.reset` is written with. DESIGN CHOICE, unsafe for a claim about
`State.reset` alone: notes/assumptions/2.md. The lane counts are those of the example in 95 section 8. -/
def Params.chosen : Params where
  engineBase := 0x40000000#32
  irqLine := 0
  vl8 := 16#8
  vl16 := 8#8
  vlb := 16#8
  coherent := true
  busMap := []

/-- Free value: a register read while BUSY = 1 (10_state R52, 93 S3). notes/assumptions/7.md. -/
opaque Config.freeWord : Nat → Word

/-- Free value: a byte an engine read sees that the host has not written back (20_memory R120, the COHERENT
entry of 93 section 4), by draw number and address. notes/assumptions/7.md. -/
opaque Config.uncleanByte : Nat → Nat → Byte

/-- Free value: a byte a host load sees inside the running command's write region (20_memory R122, 93 U4) or
in a cache line not invalidated (70_reset R524), by draw number and address. notes/assumptions/7.md. -/
opaque Config.staleByte : Nat → Nat → Byte

/-- Free value: a byte that the host's caches have lost or mixed (70_reset R524), by draw number and
address. notes/assumptions/17.md. -/
opaque Config.lostByte : Nat → Nat → Byte

/-- Free value: a byte of the write region of a command that the host raced with and a reset abandoned
(20_memory R122), by draw number and address. notes/assumptions/15.md. -/
opaque Config.spoiledByte : Nat → Nat → Byte

/-- Free choice: whether an aborted command's write to an address took effect (60_exceptions R412,
70_reset R502, 93 S5), by draw number and address. notes/assumptions/7.md. -/
opaque Config.tookEffect : Nat → Nat → Bool

/-- Free choice: which of several erring accesses is recorded (60_exceptions R403, 93 S4).
notes/assumptions/7.md. -/
opaque Config.freeIndex : Nat → Nat

/-- Free choice: whether a command hangs when, of its accesses that are outstanding together, one errs and
one never ends. notes/assumptions/14.md. -/
opaque Config.hangsFirst : Nat → Bool

end Sys2Proof
end

