-- ==== Sys2Proof/Syntax.lean ====
section
/-! DEFINITION. The command set (30_encoding R152, R158), the register names (10_state R32) and the
events the host and the platform present to the block (10_state R50, R58, 60_exceptions R405). -/

namespace Sys2Proof

/-- The two width variants (00_scope R17): S8 is 8-bit activations and a 32-bit accumulator, S16 is
16-bit activations and a 64-bit accumulator. -/
inductive Variant where
  | s8
  | s16
  deriving DecidableEq, Repr

/-- The seven commands (30_encoding R152), with the one free bit a command word has (R153). -/
inductive Instr where
  /-- CONV_S8; `bias` is BIAS_EN (40_conv R220). -/
  | convS8 (bias : Bool)
  /-- CONV_S16; `bias` is BIAS_EN (40_conv R221). -/
  | convS16 (bias : Bool)
  /-- DOT_S8; `clr` is ACC_CLR (41_dot R257). -/
  | dotS8 (clr : Bool)
  /-- DOT_S16; `clr` is ACC_CLR (41_dot R258). -/
  | dotS16 (clr : Bool)
  /-- RQ_S8 (42_requant R285). -/
  | rqS8
  /-- RQ_S16 (42_requant R286). -/
  | rqS16
  /-- MEMCPY (43_memcpy R311). -/
  | memcpy
  deriving DecidableEq, Repr

/-- The registers of the block by name, in the order of the table of 10_state R32. -/
inductive Reg where
  | id | caps | ctrl | cmd | status | errAddr | resultLo | resultHi
  | inAddr | fltAddr | biasAddr | outAddr | multAddr | shiftAddr
  | inN | inH | inW | inC | fltO | fltKH | fltKW | fltI | outN | outH | outW | outC
  | strideH | strideW | dilH | dilW | padH | padW
  | inputOffset | outputOffset | actMin | actMax
  | accLo | accHi | reqMult | reqShift
  | dotA | dotB | dotLen | cpySrc | cpyDst | cpyLen
  deriving DecidableEq, Repr

/-- The widths of a host bus access (10_state R50). -/
inductive Width where
  | w8 | w16 | w32 | w64
  deriving DecidableEq, Repr

/-- How many bytes an access of a width has. -/
def Width.bytes : Width → Nat
  | .w8 => 1
  | .w16 => 2
  | .w32 => 4
  | .w64 => 8

/-- One event from outside the engine (60_exceptions R405). A read or a write goes to the register
block when its address lies there, else to the data space (10_state R58). -/
inductive HostEvent where
  /-- A host load of a width at a bus address. -/
  | read (addr : Word) (width : Width)
  /-- A host store; only the low bits of `value` that the width has are stored. -/
  | write (addr : Word) (width : Width) (value : BitVec 64)
  /-- The host writes back its cache lines over [addr, addr + size) (70_reset R524). -/
  | clean (addr size : Nat)
  /-- The host invalidates its cache lines over [addr, addr + size) (70_reset R524). -/
  | invalidate (addr size : Nat)
  /-- The platform asserts the block's reset or powers the block down (70_reset R500, 60_exceptions R436). -/
  | hardReset
  deriving DecidableEq, Repr

/-- One entry of the total order of events (60_exceptions R405). Which constructor an entry has is
the free choice of R405: a host event may take effect before or after a command's end.
DESIGN CHOICE, safe: notes/assumptions/5.md. -/
inductive Input where
  /-- A host event that takes effect when no command is running (the host waited for BUSY = 0). -/
  | host (e : HostEvent)
  /-- A host event that takes effect at once, before a running command's end. -/
  | during (e : HostEvent)
  /-- The running command makes one internal step (10_state R55); `grant` is the length the vector
  or copy unit is asked to grant in it (41_dot R255, 43_memcpy R312), brought into the legal range. -/
  | turn (grant : Nat)
  deriving DecidableEq, Repr

end Sys2Proof
end

