-- ==== Sys2Proof/WellFormed.lean ====
section
/-! DEFINITION. Well-formedness: the legal command words as 30_encoding R156 states them (independently
of the decoder, which follows R158), and the legal parameters of 00_scope R9. Every term of `Instr` is
well-formed: its only field is one free bit (R153). -/

namespace Sys2Proof

/-- The first disjunct of 30_encoding R156, negated: OPCODE is neither 0x00 nor in 0x08 .. 0xFF. -/
def CommandWord.opcodeLegal (w : Word) : Bool :=
  decide (1 ≤ (w.extractLsb' 0 8).toNat ∧ (w.extractLsb' 0 8).toNat ≤ 7)

/-- The second disjunct of R156, negated: no bit of [31:10] is 1. -/
def CommandWord.reservedClear (w : Word) : Bool :=
  w.extractLsb' 10 22 == 0#22

/-- The third disjunct of R156, negated: BIAS_EN = 1 only with OPCODE 0x01 or 0x02. -/
def CommandWord.biasLegal (w : Word) : Bool :=
  !w.getLsbD 8 || w.extractLsb' 0 8 == 0x01#8 || w.extractLsb' 0 8 == 0x02#8

/-- The fourth disjunct of R156, negated: ACC_CLR = 1 only with OPCODE 0x03 or 0x04. -/
def CommandWord.clrLegal (w : Word) : Bool :=
  !w.getLsbD 9 || w.extractLsb' 0 8 == 0x03#8 || w.extractLsb' 0 8 == 0x04#8

/-- A command word is legal when none of the four conditions of R156 holds. -/
def CommandWord.legal (w : Word) : Bool :=
  CommandWord.opcodeLegal w && CommandWord.reservedClear w && CommandWord.biasLegal w &&
    CommandWord.clrLegal w

/-- Every command term is well-formed: its fields are the free bits of R153 and nothing else. -/
def Instr.wf : Instr → Bool
  | .convS8 _ => true
  | .convS16 _ => true
  | .dotS8 _ => true
  | .dotS16 _ => true
  | .rqS8 => true
  | .rqS16 => true
  | .memcpy => true

/-- ENGINE_BASE is a multiple of 0x100 (00_scope R9). -/
def Params.baseAligned (p : Params) : Bool :=
  p.engineBase.toNat % 0x100 == 0

/-- VL8, VL16 and VLB are in 1..255 (00_scope R9). -/
def Params.lanesPositive (p : Params) : Bool :=
  p.vl8 != 0#8 && p.vl16 != 0#8 && p.vlb != 0#8

/-- The domains of the open parameters (00_scope R9). -/
def Params.wf (p : Params) : Bool :=
  p.baseAligned && p.lanesPositive

end Sys2Proof
end

