-- ==== Sys2Proof/Decode.lean ====
section
/-! DEFINITION. Decoding of command words (30_encoding R150, R158), total on all 2^32 words, and
encoding, from the tables of R152 and R153. -/

namespace Sys2Proof

/-- Why a word is no command: the cases of 30_encoding R156, in the order the decoder of R158 meets
them. -/
inductive Illegal where
  /-- A bit of [31:10] is 1. -/
  | reservedBit
  /-- OPCODE is 0x00 or in 0x08 .. 0xFF. -/
  | opcode
  /-- BIAS_EN = 1 outside CONV_S8 and CONV_S16. -/
  | biasEn
  /-- ACC_CLR = 1 outside DOT_S8 and DOT_S16. -/
  | accClr
  deriving DecidableEq, Repr

/-- OPCODE, bits [7:0] (R150). -/
def opcodeOf (w : Word) : BitVec 8 := w.extractLsb' 0 8

/-- BIAS_EN, bit 8 (R150). -/
def biasEnOf (w : Word) : Bool := w.getLsbD 8

/-- ACC_CLR, bit 9 (R150). -/
def accClrOf (w : Word) : Bool := w.getLsbD 9

/-- The reserved bits [31:10] (R150). -/
def reservedOf (w : Word) : BitVec 22 := w.extractLsb' 10 22

/-- A command that has BIAS_EN but not ACC_CLR as a free bit. -/
def withBias (w : Word) (f : Bool → Instr) : Except Illegal Instr :=
  if accClrOf w then .error .accClr else .ok (f (biasEnOf w))

/-- A command that has ACC_CLR but not BIAS_EN as a free bit. -/
def withClr (w : Word) (f : Bool → Instr) : Except Illegal Instr :=
  if biasEnOf w then .error .biasEn else .ok (f (accClrOf w))

/-- A command that has no free bit. -/
def withNone (w : Word) (i : Instr) : Except Illegal Instr :=
  if biasEnOf w then .error .biasEn
  else if accClrOf w then .error .accClr
  else .ok i

/-- `decode` of 30_encoding R158, with the reason of a refusal. -/
def decode (w : Word) : Except Illegal Instr :=
  if reservedOf w ≠ 0#22 then .error .reservedBit
  else if opcodeOf w = 0x01#8 then withBias w .convS8
  else if opcodeOf w = 0x02#8 then withBias w .convS16
  else if opcodeOf w = 0x03#8 then withClr w .dotS8
  else if opcodeOf w = 0x04#8 then withClr w .dotS16
  else if opcodeOf w = 0x05#8 then withNone w .rqS8
  else if opcodeOf w = 0x06#8 then withNone w .rqS16
  else if opcodeOf w = 0x07#8 then withNone w .memcpy
  else .error .opcode

/-- The OPCODE of a command (R152). -/
def Instr.opcode : Instr → BitVec 8
  | .convS8 _ => 0x01#8
  | .convS16 _ => 0x02#8
  | .dotS8 _ => 0x03#8
  | .dotS16 _ => 0x04#8
  | .rqS8 => 0x05#8
  | .rqS16 => 0x06#8
  | .memcpy => 0x07#8

/-- The BIAS_EN bit of a command's word (R150, R153). -/
def Instr.biasEn : Instr → Bool
  | .convS8 b => b
  | .convS16 b => b
  | .dotS8 _ => false
  | .dotS16 _ => false
  | .rqS8 => false
  | .rqS16 => false
  | .memcpy => false

/-- The ACC_CLR bit of a command's word (R150, R153). -/
def Instr.accClr : Instr → Bool
  | .convS8 _ => false
  | .convS16 _ => false
  | .dotS8 c => c
  | .dotS16 c => c
  | .rqS8 => false
  | .rqS16 => false
  | .memcpy => false

/-- The word of a command: reserved bits 0, ACC_CLR, BIAS_EN, OPCODE (the bit layout of R150). -/
def encode (i : Instr) : Word :=
  0#22 ++ BitVec.ofBool i.accClr ++ BitVec.ofBool i.biasEn ++ i.opcode

/-- One row of the match/mask list of R153. -/
structure EncodingRow where
  pattern : Word
  mask : Word
  /-- Does the command belong to the row? -/
  mnemonic : String
  deriving DecidableEq, Repr

/-- The complete match/mask list of 30_encoding R153. -/
def encodingTable : List EncodingRow :=
  [ ⟨0x00000001#32, 0xFFFFFEFF#32, "conv.s8"⟩,
    ⟨0x00000002#32, 0xFFFFFEFF#32, "conv.s16"⟩,
    ⟨0x00000003#32, 0xFFFFFDFF#32, "dot.s8"⟩,
    ⟨0x00000004#32, 0xFFFFFDFF#32, "dot.s16"⟩,
    ⟨0x00000005#32, 0xFFFFFFFF#32, "rq.s8"⟩,
    ⟨0x00000006#32, 0xFFFFFFFF#32, "rq.s16"⟩,
    ⟨0x00000007#32, 0xFFFFFFFF#32, "memcpy"⟩ ]

/-- A word selects a row when `w & mask == match` (R153). -/
def EncodingRow.selects (r : EncodingRow) (w : Word) : Bool :=
  w &&& r.mask == r.pattern

/-- The assembler mnemonic of a command (30_encoding R160, the opcode table's spelling). -/
def Instr.mnemonic : Instr → String
  | .convS8 _ => "conv.s8"
  | .convS16 _ => "conv.s16"
  | .dotS8 _ => "dot.s8"
  | .dotS16 _ => "dot.s16"
  | .rqS8 => "rq.s8"
  | .rqS16 => "rq.s16"
  | .memcpy => "memcpy"

/-- The instruction the decoder reads from a table row's bits: bit 0 of the table is bit 0 of `CMD`
(R150), and the bits above `nbits` are 0. -/
def decodeTableWord (nbits w : Nat) : Option Instr :=
  match decode (BitVec.ofNat 32 (w % 2 ^ nbits)) with
  | .ok i => some i
  | .error _ => none

end Sys2Proof
end

