-- ==== Sys2Proof/Machine/State.lean ====
section
/-! DEFINITION. The state of the block and of the data space, as plain data (10_state, 70_reset R501),
the reasons a step stops, and the state right after reset. -/

namespace Sys2Proof.Machine

/-- The error codes of 60_exceptions R401 (the field STATUS.ERR_CODE; 0x09 .. 0xFF are never reported). -/
inductive ErrCode where
  | none | illegalCmd | clampRange | paramRange | cinMismatch | coutMismatch | batchMismatch
  | addrRange | busError
  deriving DecidableEq, Repr

/-- The fields of STATUS (10_state R37); its other bits are RAZ/WI. -/
structure Status where
  busy : Bool
  done : Bool
  err : Bool
  ign : Bool
  errCode : ErrCode
  deriving DecidableEq, Repr

/-- The stored fields of CTRL (10_state R35); START and SRST are write triggers and hold nothing. -/
structure Ctrl where
  doneIE : Bool
  errIE : Bool
  deriving DecidableEq, Repr

/-- The stored registers of the block other than CTRL and STATUS (10_state R32, R36, R38 to R48).
ID and CAPS are hard-wired (R33, R34) and are read from the parameters. The shape and geometry
registers store their 16 RW bits; bits [31:16] are RAZ/WI (R41, R42). -/
structure Regs where
  cmd : Word
  errAddr : Word
  resultLo : Word
  resultHi : Word
  inAddr : Word
  fltAddr : Word
  biasAddr : Word
  outAddr : Word
  multAddr : Word
  shiftAddr : Word
  inN : Half
  inH : Half
  inW : Half
  inC : Half
  fltO : Half
  fltKH : Half
  fltKW : Half
  fltI : Half
  outN : Half
  outH : Half
  outW : Half
  outC : Half
  strideH : Half
  strideW : Half
  dilH : Half
  dilW : Half
  padH : Half
  padW : Half
  inputOffset : Word
  outputOffset : Word
  actMin : Word
  actMax : Word
  accLo : Word
  accHi : Word
  reqMult : Word
  reqShift : Word
  dotA : Word
  dotB : Word
  dotLen : Word
  cpySrc : Word
  cpyDst : Word
  cpyLen : Word
  deriving DecidableEq, Repr

/-- The data space: its bytes that differ from what an unlisted address reads as, addresses strictly
rising (10_state R58). -/
abbrev Memory := List Host.Cell

/-- What an address that memory does not list reads as. The spec gives no contents at power-up
(70_reset R500: memory is not touched by reset). DESIGN CHOICE, unsafe: notes/assumptions/1.md. -/
def Memory.unlisted : Byte := 0#8

/-- The hidden state of a running command (10_state R55). The loop position is held as flat indices
of 00_scope R16 (notes/assumptions/9.md). -/
structure Running where
  /-- The command in flight, decoded at its START (10_state R31). -/
  cmd : Instr
  /-- The output element being computed: index of (batch, out_y, out_x, out_c) in loop order. -/
  elem : Nat
  /-- The tap being added: index of (kernel row, kernel column) in loop order. -/
  tap : Nat
  /-- The channel index within the tap, or the element or byte index of DOT and MEMCPY. -/
  chan : Nat
  /-- The accumulator of the current output element, or DOT's running sum; a 32-bit accumulator is
  held sign-extended. -/
  acc : BitVec 64
  /-- The vector or copy length granted in the last step. -/
  grant : Nat
  /-- Writes issued but not yet complete, in the order issued (20_memory R121, R123). -/
  writes : List Host.Cell
  /-- The host raced with the command (20_memory R122): its results are UNDEFINED. -/
  raced : Bool
  /-- An access of the command is outstanding that never ends (70_reset R530, 93 S9). -/
  stalled : Bool
  deriving DecidableEq, Repr

/-- What the slave port last answered the host (10_state R50, R52, R53). The model's own field:
notes/assumptions/20.md. -/
inductive Response where
  /-- No access yet since reset. -/
  | none
  /-- A write, a cache operation or a reset was taken. -/
  | done
  /-- The data of a read. -/
  | data (value : BitVec 64)
  /-- A bus error response (10_state R50). -/
  | busError
  deriving DecidableEq, Repr

/-- The state of the machine. -/
structure State where
  /-- The stored registers. -/
  regs : Regs
  ctrl : Ctrl
  status : Status
  /-- The data space. -/
  mem : Memory
  /-- Byte addresses the host has stored to in its caches and not yet written back, rising; used when
  COHERENT = false (20_memory R128, 70_reset R524). -/
  unclean : List Nat
  /-- Byte addresses the engine has written that the host has not invalidated since, rising; used when
  COHERENT = false (20_memory R121, 70_reset R524). -/
  stale : List Nat
  /-- The running command's hidden state; absent when none runs (10_state R55). -/
  running : Option Running
  /-- The events still to come, oldest first (60_exceptions R405, 20_memory R129). -/
  pending : List Input
  /-- The last answer of the slave port. -/
  response : Response
  /-- The open parameters (00_scope R9), which no step changes. -/
  params : Params
  /-- How many free values have been drawn. DESIGN CHOICE, the model's own: notes/assumptions/7.md. -/
  draws : Nat
  deriving DecidableEq, Repr

/-- Reasons a step stops where the spec says UNDEFINED: 93_implementation_defined.md U1 to U5 has a
model fault there (92 D32). Each is safe: the hardware goes on (60_exceptions R406), the model gives no
state. notes/assumptions/11.md and 15.md. -/
inductive Fault where
  /-- U1: CONV_S8 with FLT_KH × FLT_KW × IN_C ≥ 65536 (40_conv R215). Raised by `execConvS8` at the
  accepted START, after the checks of R202 pass. Safe. -/
  | accDepth
  /-- U2: the OUT region overlaps IN, FLT, BIAS (when enabled), MULT or SHIFT (20_memory R124). Raised
  by `execConvS8` and `execConvS16` at the accepted START. Safe. -/
  | outAliased
  /-- U3: MEMCPY with overlapping SRC and DST, n > 0 (43_memcpy R313). Raised by `execMemcpy` at the
  accepted START. Safe. -/
  | copyOverlap
  /-- U4: the host stored to a region of the running command, or read its write region, while BUSY = 1
  (20_memory R122). Raised at the completion or the bus error of the command, never at a reset. Safe. -/
  | hostRace
  /-- U5: a region covers device registers, the engine's own register block or unmapped addresses that
  answer without an error (20_memory R106). Raised at the accepted START of CONV, DOT and MEMCPY. Safe. -/
  | notOrdinary
  deriving DecidableEq, Repr

/-- Reasons a step has no meaning. -/
inductive Refusal where
  /-- An instruction without a meaning: raised by `exec` in the arm of that instruction. Safe. -/
  | notModelled (mnemonic : String)
  /-- The host itself accesses a data-space address that is a device or never answers: what such a
  device does is the platform's (00_scope R7, 20_memory R109). Raised by `hostRead` and `hostWrite`,
  never by a command. Safe: notes/assumptions/18.md. -/
  | hostDeviceAccess
  deriving DecidableEq, Repr

/-- The registers at their reset values (70_reset R501). -/
def Regs.reset : Regs where
  cmd := 0#32
  errAddr := 0#32
  resultLo := 0#32
  resultHi := 0#32
  inAddr := 0#32
  fltAddr := 0#32
  biasAddr := 0#32
  outAddr := 0#32
  multAddr := 0#32
  shiftAddr := 0#32
  inN := 0#16
  inH := 0#16
  inW := 0#16
  inC := 0#16
  fltO := 0#16
  fltKH := 0#16
  fltKW := 0#16
  fltI := 0#16
  outN := 0#16
  outH := 0#16
  outW := 0#16
  outC := 0#16
  strideH := 1#16
  strideW := 1#16
  dilH := 1#16
  dilW := 1#16
  padH := 0#16
  padW := 0#16
  inputOffset := 0#32
  outputOffset := 0#32
  actMin := 0#32
  actMax := 0#32
  accLo := 0#32
  accHi := 0#32
  reqMult := 0#32
  reqShift := 0#32
  dotA := 0#32
  dotB := 0#32
  dotLen := 0#32
  cpySrc := 0#32
  cpyDst := 0#32
  cpyLen := 0#32

/-- STATUS at reset: every bit 0 (70_reset R501). -/
def Status.reset : Status := ⟨false, false, false, false, .none⟩

/-- CTRL at reset: both enables 0 (70_reset R501). -/
def Ctrl.reset : Ctrl := ⟨false, false⟩

/-- The machine right after reset on a part with given parameters: every register at the value of
70_reset R501, idle (R504), nothing pending. -/
def State.resetWith (p : Params) : State where
  regs := Regs.reset
  ctrl := Ctrl.reset
  status := Status.reset
  mem := []
  unclean := []
  stale := []
  running := none
  pending := []
  response := .none
  params := p
  draws := 0

/-- The machine right after reset. The parameters' values are the model's: notes/assumptions/2.md. -/
def State.reset : State := State.resetWith Params.chosen

end Sys2Proof.Machine
end

