-- ==== Sys2Proof/Machine/Flags.lean ====
section
/-! DEFINITION. The engine's flags: the STATUS and CTRL words as the host reads them, every way a
STATUS field is set or cleared (10_state R35, R37), and the `irq` level (60_exceptions R420). -/

namespace Sys2Proof.Machine

/-- The code values of 60_exceptions R401. -/
def ErrCode.toByte : ErrCode → BitVec 8
  | .none => 0x00#8
  | .illegalCmd => 0x01#8
  | .clampRange => 0x02#8
  | .paramRange => 0x03#8
  | .cinMismatch => 0x04#8
  | .coutMismatch => 0x05#8
  | .batchMismatch => 0x06#8
  | .addrRange => 0x07#8
  | .busError => 0x08#8

/-- STATUS as a 32-bit pattern (10_state R37). -/
def statusWord (st : Status) : Word :=
  0#16 ++ st.errCode.toByte ++ 0#4 ++ BitVec.ofBool st.ign ++ BitVec.ofBool st.err ++
    BitVec.ofBool st.done ++ BitVec.ofBool st.busy

/-- CTRL as it reads: {0, 0 (bits 30:3), ERR_IE, DONE_IE, 0} (10_state R35). -/
def ctrlWord (c : Ctrl) : Word :=
  0#29 ++ BitVec.ofBool c.errIE ++ BitVec.ofBool c.doneIE ++ 0#1

/-- STATUS when a START is accepted: DONE, ERR and ERR_CODE are cleared, IGN is not (60_exceptions
R410, 10_state R37). -/
def Status.accepted (st : Status) : Status :=
  { st with done := false, err := false, errCode := .none }

/-- STATUS when a command has passed its checks: BUSY is set (60_exceptions R410). -/
def Status.begun (st : Status) : Status :=
  { st with busy := true }

/-- STATUS at a completion: BUSY cleared, DONE set (60_exceptions R413). -/
def Status.completed (st : Status) : Status :=
  { st with busy := false, done := true }

/-- STATUS at an error: ERR and ERR_CODE set, BUSY 0 (60_exceptions R411, R412). -/
def Status.failed (c : ErrCode) (st : Status) : Status :=
  { st with busy := false, err := true, errCode := c }

/-- STATUS when a register write is dropped because BUSY = 1 (10_state R51). -/
def Status.ignored (st : Status) : Status :=
  { st with ign := true }

/-- STATUS after a host write of `w` to it: writing 1 clears DONE, ERR (with ERR_CODE) and IGN; BUSY and
ERR_CODE are read-only (10_state R37). -/
def Status.acknowledged (w : Word) (st : Status) : Status :=
  { st with
    done := st.done && !w.getLsbD 1
    err := st.err && !w.getLsbD 2
    errCode := if w.getLsbD 2 then .none else st.errCode
    ign := st.ign && !w.getLsbD 3 }

/-- CTRL after a write that is not a soft reset stores its enables (10_state R35, 60_exceptions R410). -/
def Ctrl.written (w : Word) : Ctrl :=
  ⟨w.getLsbD 1, w.getLsbD 2⟩

/-- The interrupt output (60_exceptions R420): a level, evaluated after every event. -/
def State.irq (s : State) : Bool :=
  (s.status.done && s.ctrl.doneIE) || (s.status.err && s.ctrl.errIE)

end Sys2Proof.Machine
end

