-- ==== Sys2Proof/Machine/Ops.lean ====
section
/-! DEFINITION. The named operations over memory and registers, taking an error (60_exceptions R411,
R412) and returning from one (R415), accepting a START (R410), and the reset of the block's registers
(70_reset R501). -/

namespace Sys2Proof.Machine

/-! ## Memory (10_state R58) -/

/-- The byte at an address. -/
def Memory.read : Memory → Nat → Byte
  | [], _ => Memory.unlisted
  | (c, x) :: rest, a => if a = c then x else Memory.read rest a

/-- Store one byte, keeping the canonical form: addresses rising, no byte equal to `Memory.unlisted`
listed. -/
def Memory.write : Memory → Nat → Byte → Memory
  | [], a, b => if b = Memory.unlisted then [] else [(a, b)]
  | (c, x) :: rest, a, b =>
    if a < c then
      if b = Memory.unlisted then (c, x) :: rest else (a, b) :: (c, x) :: rest
    else if a = c then
      if b = Memory.unlisted then rest else (a, b) :: rest
    else (c, x) :: Memory.write rest a b

/-- Store a list of bytes, first to last. -/
def Memory.writeCells (m : Memory) (cells : List Host.Cell) : Memory :=
  cells.foldl (fun m c => m.write c.1 c.2) m

/-- The canonical form of a memory: addresses strictly rising, no listed byte equal to what an unlisted
address reads as. -/
def Memory.wf : Memory → Bool
  | [] => true
  | (c, x) :: rest => x != Memory.unlisted && rest.all (fun d => decide (c < d.1)) && Memory.wf rest

/-- Put an address into a rising list of addresses without repeats. -/
def insertAddr : List Nat → Nat → List Nat
  | [], a => [a]
  | c :: rest, a =>
    if a < c then a :: c :: rest else if a = c then c :: rest else c :: insertAddr rest a

/-! ## Registers (10_state R32) -/

/-- Every register of the block, in the order of 10_state R32. -/
def allRegs : List Reg :=
  [.id, .caps, .ctrl, .cmd, .status, .errAddr, .resultLo, .resultHi] ++
  [.inAddr, .fltAddr, .biasAddr, .outAddr, .multAddr, .shiftAddr] ++
  [.inN, .inH, .inW, .inC, .fltO, .fltKH, .fltKW, .fltI, .outN, .outH, .outW, .outC] ++
  [.strideH, .strideW, .dilH, .dilW, .padH, .padW] ++
  [.inputOffset, .outputOffset, .actMin, .actMax, .accLo, .accHi, .reqMult, .reqShift] ++
  [.dotA, .dotB, .dotLen, .cpySrc, .cpyDst, .cpyLen]

/-- The offset of a register in the block (10_state R32). -/
def regOffset : Reg → Nat
  | .id => 0x000
  | .caps => 0x004
  | .ctrl => 0x008
  | .cmd => 0x00C
  | .status => 0x010
  | .errAddr => 0x014
  | .resultLo => 0x018
  | .resultHi => 0x01C
  | .inAddr => 0x020
  | .fltAddr => 0x024
  | .biasAddr => 0x028
  | .outAddr => 0x02C
  | .multAddr => 0x030
  | .shiftAddr => 0x034
  | .inN => 0x040
  | .inH => 0x044
  | .inW => 0x048
  | .inC => 0x04C
  | .fltO => 0x050
  | .fltKH => 0x054
  | .fltKW => 0x058
  | .fltI => 0x05C
  | .outN => 0x060
  | .outH => 0x064
  | .outW => 0x068
  | .outC => 0x06C
  | .strideH => 0x070
  | .strideW => 0x074
  | .dilH => 0x078
  | .dilW => 0x07C
  | .padH => 0x080
  | .padW => 0x084
  | .inputOffset => 0x090
  | .outputOffset => 0x094
  | .actMin => 0x098
  | .actMax => 0x09C
  | .accLo => 0x0A0
  | .accHi => 0x0A4
  | .reqMult => 0x0A8
  | .reqShift => 0x0AC
  | .dotA => 0x0B0
  | .dotB => 0x0B4
  | .dotLen => 0x0B8
  | .cpySrc => 0x0C0
  | .cpyDst => 0x0C4
  | .cpyLen => 0x0C8

/-- The register at an offset; none at a reserved or misaligned offset (10_state R32, R49). -/
def regAt (off : Nat) : Option Reg :=
  allRegs.find? (fun r => regOffset r == off)

/-- The constant of the ID register (10_state R33). -/
def idWord : Word := 0xC2D00700#32

/-- CAPS = {0x00, VLB, VL16, VL8} (10_state R34). -/
def capsWord (p : Params) : Word :=
  0#8 ++ p.vlb ++ p.vl16 ++ p.vl8

/-- A 16-bit register as it reads: bits [31:16] are zero (10_state R41, R42). -/
def halfWord (h : Half) : Word := h.setWidth 32

/-- The 16 bits a 16-bit register stores of a written word (10_state R41, R42). -/
def lowHalf (w : Word) : Half := w.setWidth 16

/-- `x[NAME]` (00_scope R12): a register as a 32-bit pattern, while BUSY = 0 or for a register that
reads as defined while BUSY = 1 (10_state R52). -/
def readReg (r : Reg) (s : State) : Word :=
  match r with
  | .id => idWord
  | .caps => capsWord s.params
  | .ctrl => ctrlWord s.ctrl
  | .status => statusWord s.status
  | .cmd => s.regs.cmd
  | .errAddr => s.regs.errAddr
  | .resultLo => s.regs.resultLo
  | .resultHi => s.regs.resultHi
  | .inAddr => s.regs.inAddr
  | .fltAddr => s.regs.fltAddr
  | .biasAddr => s.regs.biasAddr
  | .outAddr => s.regs.outAddr
  | .multAddr => s.regs.multAddr
  | .shiftAddr => s.regs.shiftAddr
  | .inN => halfWord s.regs.inN
  | .inH => halfWord s.regs.inH
  | .inW => halfWord s.regs.inW
  | .inC => halfWord s.regs.inC
  | .fltO => halfWord s.regs.fltO
  | .fltKH => halfWord s.regs.fltKH
  | .fltKW => halfWord s.regs.fltKW
  | .fltI => halfWord s.regs.fltI
  | .outN => halfWord s.regs.outN
  | .outH => halfWord s.regs.outH
  | .outW => halfWord s.regs.outW
  | .outC => halfWord s.regs.outC
  | .strideH => halfWord s.regs.strideH
  | .strideW => halfWord s.regs.strideW
  | .dilH => halfWord s.regs.dilH
  | .dilW => halfWord s.regs.dilW
  | .padH => halfWord s.regs.padH
  | .padW => halfWord s.regs.padW
  | .inputOffset => s.regs.inputOffset
  | .outputOffset => s.regs.outputOffset
  | .actMin => s.regs.actMin
  | .actMax => s.regs.actMax
  | .accLo => s.regs.accLo
  | .accHi => s.regs.accHi
  | .reqMult => s.regs.reqMult
  | .reqShift => s.regs.reqShift
  | .dotA => s.regs.dotA
  | .dotB => s.regs.dotB
  | .dotLen => s.regs.dotLen
  | .cpySrc => s.regs.cpySrc
  | .cpyDst => s.regs.cpyDst
  | .cpyLen => s.regs.cpyLen

/-- A host write to a register of the RW or RO class (10_state R32): RW registers store the word (their
16 low bits for a shape or geometry register), RO registers ignore it. CTRL and STATUS have writes of
their own (`writeCtrl`, `writeStatus`) and are left alone here. -/
def writeReg (r : Reg) (w : Word) (g : Regs) : Regs :=
  match r with
  | .id => g
  | .caps => g
  | .ctrl => g
  | .status => g
  | .errAddr => g
  | .resultLo => g
  | .resultHi => g
  | .cmd => { g with cmd := w }
  | .inAddr => { g with inAddr := w }
  | .fltAddr => { g with fltAddr := w }
  | .biasAddr => { g with biasAddr := w }
  | .outAddr => { g with outAddr := w }
  | .multAddr => { g with multAddr := w }
  | .shiftAddr => { g with shiftAddr := w }
  | .inN => { g with inN := lowHalf w }
  | .inH => { g with inH := lowHalf w }
  | .inW => { g with inW := lowHalf w }
  | .inC => { g with inC := lowHalf w }
  | .fltO => { g with fltO := lowHalf w }
  | .fltKH => { g with fltKH := lowHalf w }
  | .fltKW => { g with fltKW := lowHalf w }
  | .fltI => { g with fltI := lowHalf w }
  | .outN => { g with outN := lowHalf w }
  | .outH => { g with outH := lowHalf w }
  | .outW => { g with outW := lowHalf w }
  | .outC => { g with outC := lowHalf w }
  | .strideH => { g with strideH := lowHalf w }
  | .strideW => { g with strideW := lowHalf w }
  | .dilH => { g with dilH := lowHalf w }
  | .dilW => { g with dilW := lowHalf w }
  | .padH => { g with padH := lowHalf w }
  | .padW => { g with padW := lowHalf w }
  | .inputOffset => { g with inputOffset := w }
  | .outputOffset => { g with outputOffset := w }
  | .actMin => { g with actMin := w }
  | .actMax => { g with actMax := w }
  | .accLo => { g with accLo := w }
  | .accHi => { g with accHi := w }
  | .reqMult => { g with reqMult := w }
  | .reqShift => { g with reqShift := w }
  | .dotA => { g with dotA := w }
  | .dotB => { g with dotB := w }
  | .dotLen => { g with dotLen := w }
  | .cpySrc => { g with cpySrc := w }
  | .cpyDst => { g with cpyDst := w }
  | .cpyLen => { g with cpyLen := w }

/-- The 64-bit pattern `ACC` = {ACC_HI, ACC_LO} (10_state R45). -/
def accPair (g : Regs) : BitVec 64 := g.accHi ++ g.accLo

/-- Write both halves of `ACC`. -/
def setAcc (v : BitVec 64) (g : Regs) : Regs :=
  { g with accLo := v.extractLsb' 0 32, accHi := v.extractLsb' 32 32 }

/-- The 64-bit pattern `RESULT` = {RESULT_HI, RESULT_LO} (10_state R39). -/
def resultPair (g : Regs) : BitVec 64 := g.resultHi ++ g.resultLo

/-- Write both halves of `RESULT`. -/
def setResult (v : BitVec 64) (g : Regs) : Regs :=
  { g with resultLo := v.extractLsb' 0 32, resultHi := v.extractLsb' 32 32 }

/-! ## Events of the control registers -/

/-- Taking an error: STATUS.ERR, ERR_CODE and ERR_ADDR are written, BUSY is 0, no command runs any more.
Shared by the start-time errors (60_exceptions R411) and the bus error (R412); control goes nowhere
(R414). -/
def raiseError (c : ErrCode) (addr : Word) (s : State) : State :=
  { s with
    status := s.status.failed c
    regs := { s.regs with errAddr := addr }
    running := none }

/-- A host write to STATUS (10_state R37, R38): the return from an error (60_exceptions R415). Writing 1
to ERR also clears ERR_ADDR. -/
def writeStatus (w : Word) (s : State) : State :=
  { s with
    status := s.status.acknowledged w
    regs := { s.regs with errAddr := if w.getLsbD 2 then 0#32 else s.regs.errAddr } }

/-- A dropped register write (10_state R51). -/
def ignoreWrite (s : State) : State :=
  { s with status := s.status.ignored }

/-- A CTRL write stores its enables (10_state R35, 60_exceptions R410). -/
def storeEnables (w : Word) (s : State) : State :=
  { s with ctrl := Ctrl.written w }

/-- An accepted START clears DONE, ERR, ERR_CODE and ERR_ADDR (60_exceptions R410). Each command draws its
free values anew (00_scope R14, notes/assumptions/7.md). -/
def acceptStart (s : State) : State :=
  { s with
    status := s.status.accepted
    regs := { s.regs with errAddr := 0#32 }
    draws := s.draws + 1 }

/-- Every register at its reset value and no command in flight (70_reset R500, R501, R503). Memory, the
host's caches and the events to come are not the block's and stay. -/
def resetRegisters (s : State) : State :=
  { s with
    regs := Regs.reset
    ctrl := Ctrl.reset
    status := Status.reset
    running := none }

end Sys2Proof.Machine
end

