-- ==== Sys2Proof/Machine/Operands.lean ====
section
/-! DEFINITION. Operand forms: signed readings and wrapping (00_scope R11), element accesses
(R13, R15), regions (20_memory R107, R108), the constants of the two variants (40_conv R201), and the
one reduction both CONV and DOT use (41_dot R252). -/

namespace Sys2Proof.Machine

/-! ## Patterns (00_scope R11) -/

/-- `signed_W(p)`: a W-bit pattern as two's complement. -/
def signedOf (w : Nat) (p : Nat) : Int :=
  if p < 2 ^ (w - 1) then (p : Int) else (p : Int) - 2 ^ w

/-- `clamp(v, lo, hi)`. -/
def clamp (v lo hi : Int) : Int :=
  if v < lo then lo else if hi < v then hi else v

/-! ## Element accesses of the master port (00_scope R13, R15, 20_memory R100, R102) -/

/-- The byte an engine read sees at an address. With COHERENT = false a byte the host has not written
back is a free value (20_memory R120, 93 section 4); notes/assumptions/17.md. -/
def engineByte (s : State) (a : Nat) : Byte :=
  if !s.params.coherent && s.unclean.contains a then Config.uncleanByte s.draws a else s.mem.read a

/-- `MemRead(addr, n)`: n bytes assembled little-endian, any alignment. -/
def memRead (s : State) : Nat → Nat → Nat
  | _, 0 => 0
  | a, n + 1 => (engineByte s a).toNat + 256 * memRead s (a + 1) n

/-- `LoadS(addr, n)`: the signed value of an n-byte element. -/
def loadS (s : State) (a n : Nat) : Int :=
  signedOf (8 * n) (memRead s a n)

/-- The bytes `StoreT(addr, n, v)` writes, bits [7:0] at the lowest address. -/
def elementCells (a n : Nat) (v : Int) : List Host.Cell :=
  (List.range n).map fun k => (a + k, BitVec.ofInt 8 (v / 2 ^ (8 * k)))

/-! ## Regions (20_memory R107, R108) -/

/-- A byte range [base, base + size). -/
structure Region where
  base : Nat
  size : Nat
  deriving DecidableEq, Repr

/-- Is an address in the region? -/
def Region.covers (r : Region) (a : Nat) : Bool :=
  decide (r.base ≤ a ∧ a < r.base + r.size)

/-- Do two regions share a byte? -/
def Region.overlaps (r q : Region) : Bool :=
  decide (0 < r.size ∧ 0 < q.size ∧ r.base < q.base + q.size ∧ q.base < r.base + r.size)

/-- The ADDR_RANGE check (20_memory R108): the base of the first region that ends beyond 2^32. -/
def addrRangeError (regions : List Region) : Option (ErrCode × Word) :=
  (regions.find? fun r => decide (2 ^ 32 < r.base + r.size)).map fun r =>
    (.addrRange, BitVec.ofNat 32 r.base)

/-- The register block's own range on the bus (10_state R32). -/
def blockRegion (p : Params) : Region := ⟨p.engineBase.toNat, 0x100⟩

/-- A region covers the engine's own register block or a device of the platform (20_memory R106). -/
def Region.notOrdinary (p : Params) (r : Region) : Bool :=
  r.overlaps (blockRegion p) ||
    p.busMap.any fun d => d.kind == .device && r.overlaps ⟨d.base, d.size⟩

/-- U5 of 93: some region of the command is not ordinary memory. -/
def ordinaryFault (p : Params) (regions : List Region) : Option Fault :=
  if regions.any (Region.notOrdinary p) then some .notOrdinary else none

/-! ## The CLAMP_RANGE check (10_state R44) -/

/-- Not lo_type ≤ ACT_MIN ≤ ACT_MAX ≤ hi_type (60_exceptions R401). -/
def clampRangeError (loType hiType : Int) (g : Regs) : Option (ErrCode × Word) :=
  if loType ≤ g.actMin.toInt ∧ g.actMin.toInt ≤ g.actMax.toInt ∧ g.actMax.toInt ≤ hiType then none
  else some (.clampRange, 0#32)

end Sys2Proof.Machine

namespace Sys2Proof

open Sys2Proof.Machine

/-! ## Variant constants (40_conv R201) -/

/-- Input and output element size `es`. -/
def Variant.es : Variant → Nat
  | .s8 => 1
  | .s16 => 2

/-- Bias element size `bs`. -/
def Variant.bs : Variant → Nat
  | .s8 => 4
  | .s16 => 8

/-- Accumulator width `Wacc`. -/
def Variant.wacc : Variant → Nat
  | .s8 => 32
  | .s16 => 64

/-- The least legal clamp bound `lo_type`. -/
def Variant.loType : Variant → Int
  | .s8 => -128
  | .s16 => -32768

/-- The greatest legal clamp bound `hi_type`. -/
def Variant.hiType : Variant → Int
  | .s8 => 127
  | .s16 => 32767

/-- Input offset `ioff`: INPUT_OFFSET for S8, 0 for S16. -/
def Variant.ioff (v : Variant) (g : Regs) : Int :=
  match v with
  | .s8 => g.inputOffset.toInt
  | .s16 => 0

/-- Output offset `ooff`: OUTPUT_OFFSET for S8, 0 for S16. -/
def Variant.ooff (v : Variant) (g : Regs) : Int :=
  match v with
  | .s8 => g.outputOffset.toInt
  | .s16 => 0

/-- The largest lane count of a step, `VLMAX_v` (41_dot R255). -/
def Variant.vlmax (v : Variant) (p : Params) : Nat :=
  match v with
  | .s8 => p.vl8.toNat
  | .s16 => p.vl16.toNat

end Sys2Proof

namespace Sys2Proof.Machine

/-! ## The reduction (41_dot R251, R252, R255) -/

/-- `wrap_Wacc`, the pattern held in 64 bits: a 32-bit accumulator is held sign-extended, so that its
`toInt` is `signed_Wacc` of the pattern (40_conv R207, notes/assumptions/9.md). -/
def accWrap (v : Variant) (x : Int) : BitVec 64 :=
  match v with
  | .s8 => (BitVec.ofInt 32 x).signExtend 64
  | .s16 => BitVec.ofInt 64 x

/-- One lane: `(a_i + off) × w_i`, exact (41_dot R251). -/
def lane (s : State) (v : Variant) (pa pw : Nat) (off : Int) (i : Nat) : Int :=
  (loadS s (pa + v.es * i) v.es + off) * loadS s (pw + i) 1

/-- The exact sum of lanes lo .. lo+n-1. `reduce s v pa pw off 0 n` is `REDUCE(v, pa, pw, n, off)` of
41_dot R252. -/
def reduce (s : State) (v : Variant) (pa pw : Nat) (off : Int) (lo n : Nat) : Int :=
  ((List.range' lo n).map (lane s v pa pw off)).sum

/-- The granted length of a step: the asked one brought into [1, min(req, VLMAX)] (41_dot R255,
43_memcpy R312), for req ≥ 1. -/
def granted (ask req vlmax : Nat) : Nat :=
  max 1 (min ask (min req vlmax))

end Sys2Proof.Machine
end

