-- ==== Sys2Proof/Machine/Lifecycle.lean ====
section
/-! DEFINITION. The life of a command, shared by all seven: START after decode (60_exceptions R410,
R411), its end (R413 completion, R412 bus error, 70_reset R530 no answer), and its abandonment by a reset
(70_reset R502). -/

namespace Sys2Proof.Machine

/-! ## What a command does to memory -/

/-- One element access of the master port: `bytes` bytes at `addr` (00_scope R13). -/
structure Access where
  addr : Nat
  bytes : Nat
  deriving DecidableEq, Repr

/-- One unit of a command's work: the reads it needs, the writes it makes once all of them have returned, and
the bytes these writes store; for CONV one output element (20_memory R123), for MEMCPY one byte, for DOT
one lane. -/
structure WorkUnit where
  reads : List Access
  writes : List Access
  cells : List Host.Cell
  deriving DecidableEq, Repr

/-- The byte addresses of an access. -/
def Access.addrs (x : Access) : List Nat :=
  (List.range x.bytes).map (x.addr + ·)

/-- Does the platform's map give an address a kind of answer? -/
def answersAs (p : Params) (k : RangeKind) (a : Nat) : Bool :=
  p.busMap.any fun d => d.kind == k && decide (d.base ≤ a ∧ a < d.base + d.size)

/-- The addresses ERR_ADDR may record for an access that receives an error response: the access's own
address and its erring bytes; none when it receives none (10_state R38, 60_exceptions R403). DESIGN
CHOICE, safe: notes/assumptions/12.md. -/
def Access.errAddrs (p : Params) (k : RangeKind) (x : Access) : List Nat :=
  let bad := x.addrs.filter (answersAs p k)
  if bad.isEmpty then [] else x.addr :: bad

/-- The access never ends (93 S9). -/
def Access.hangs (p : Params) (x : Access) : Bool :=
  x.addrs.any (answersAs p .silent)

/-- The addresses a bus error of the unit's reads may record. -/
def WorkUnit.readErrAddrs (p : Params) (u : WorkUnit) : List Nat :=
  u.reads.flatMap (Access.errAddrs p .errorOnRead)

/-- The addresses a bus error of the unit's writes may record. -/
def WorkUnit.writeErrAddrs (p : Params) (u : WorkUnit) : List Nat :=
  u.writes.flatMap (Access.errAddrs p .errorOnWrite)

/-- Some read of the unit never ends. -/
def WorkUnit.readsHang (p : Params) (u : WorkUnit) : Bool :=
  u.reads.any (Access.hangs p)

/-- Some write of the unit never ends. -/
def WorkUnit.writesHang (p : Params) (u : WorkUnit) : Bool :=
  u.writes.any (Access.hangs p)

/-- The addresses at which an access of the unit would err, were all of them made. -/
def WorkUnit.errAddrs (p : Params) (u : WorkUnit) : List Nat :=
  u.readErrAddrs p ++ u.writeErrAddrs p

/-- Some access of the unit would never end, were all of them made. -/
def WorkUnit.hangs (p : Params) (u : WorkUnit) : Bool :=
  u.readsHang p || u.writesHang p

/-- Every access of the unit ends with data. -/
def WorkUnit.answers (p : Params) (u : WorkUnit) : Bool :=
  (u.errAddrs p).isEmpty && !u.hangs p

/-- Every read of the unit returns data, so that its rule gives the bytes it writes (00_scope R13: a
`MemRead` that receives an error response does not return). -/
def WorkUnit.readsReturn (p : Params) (u : WorkUnit) : Bool :=
  (u.readErrAddrs p).isEmpty && !u.readsHang p

/-- The addresses at which an access of the work would err, were all of them made. -/
def workErrAddrs (p : Params) (work : List WorkUnit) : List Nat :=
  work.flatMap (WorkUnit.errAddrs p)

/-- Some access of the work would never end, were all of them made. -/
def workHangs (p : Params) (work : List WorkUnit) : Bool :=
  work.any (WorkUnit.hangs p)

/-- What the engine meets when the first of its accesses does not return data: the addresses a bus error
may record, and whether one of the accesses outstanding together never ends. -/
structure Exposed where
  errAddrs : List Nat
  hangs : Bool
  deriving DecidableEq, Repr

/-- The accesses of `work` that can be outstanding when the first one does not return data, `w` being the
most units a step takes (41_dot R255, 43_memcpy R312; 1 for CONV, whose elements are made one after the
other, 40_conv R203, R213). Every unit before the first that does not answer has ended, the step that
meets it reaches at most `w` units on, and within a step all reads precede all writes, which are made only
when their reads have returned (00_scope R13, 20_memory R123). notes/assumptions/12.md. -/
def exposed (p : Params) (w : Nat) (work : List WorkUnit) : Exposed :=
  let window := (work.dropWhile (WorkUnit.answers p)).take (max 1 w)
  let reached := window.takeWhile (WorkUnit.readsReturn p)
  { errAddrs := window.flatMap (WorkUnit.readErrAddrs p) ++ reached.flatMap (WorkUnit.writeErrAddrs p)
    hangs := window.any (WorkUnit.readsHang p) || reached.any (WorkUnit.writesHang p) }

/-- Several units made as one step: all reads, then all writes (43_memcpy R312). -/
def WorkUnit.joined (units : List WorkUnit) : WorkUnit where
  reads := units.flatMap WorkUnit.reads
  writes := units.flatMap WorkUnit.writes
  cells := units.flatMap WorkUnit.cells

/-- Every byte the command stores, in order. -/
def workCells (work : List WorkUnit) : List Host.Cell :=
  work.flatMap WorkUnit.cells

/-- The bytes an aborted command has stored: of each unit whose reads return, any subset (60_exceptions
R412, 70_reset R502, 93 S5), chosen by the free value of draw number `k`. notes/assumptions/13.md. -/
def abortedCells (p : Params) (k : Nat) (work : List WorkUnit) : List Host.Cell :=
  work.flatMap fun u =>
    if u.readsReturn p then u.cells.filter fun c => Config.tookEffect k c.1 else []

/-- The address a bus error records: the only candidate, or a free choice among several (60_exceptions
R403, 93 S4). -/
def pickErrAddr (k : Nat) (candidates : List Nat) : Nat :=
  match candidates.eraseDups with
  | [a] => a
  | as => as.getD (Config.freeIndex k % as.length) 0

/-- Bytes the engine stored are stale in the host's caches until invalidated, when COHERENT = false
(70_reset R524). notes/assumptions/17.md. -/
def staleAfter (s : State) (cells : List Host.Cell) : List Nat :=
  if s.params.coherent then s.stale else (cells.map (·.1)).foldl insertAddr s.stale

/-- Bytes stored by the engine become visible in the data space (20_memory R121). -/
def storeCells (cells : List Host.Cell) (s : State) : State :=
  { s with mem := s.mem.writeCells cells, stale := staleAfter s cells }

/-! ## The end of a command -/

/-- Completion (60_exceptions R413): the command's writes and its register results, BUSY ← 0, DONE ← 1;
the hidden state is discarded (10_state R55). -/
def completeCommand (cells : List Host.Cell) (results : Regs) (s : State) : State :=
  { storeCells cells s with
    regs := results
    status := s.status.completed
    running := none }

/-- Bus error (60_exceptions R412): the error is taken with one of the addresses `candidates`, RESULT and
ACC stay, each byte of the write region is old or new. -/
def busErrorEnd (candidates : List Nat) (work : List WorkUnit) (s : State) : State :=
  { raiseError .busError (BitVec.ofNat 32 (pickErrAddr s.draws candidates))
      (storeCells (abortedCells s.params s.draws work) s) with
    draws := s.draws + 1 }

/-- An access of the running command never ends: the command stays as it is, with BUSY = 1 (70_reset
R530). -/
def stallCommand (r : Running) (s : State) : State :=
  { s with running := some { r with stalled := true } }

/-- The end event of a running command. `x` is what it meets, `work` what is left of it (with the writes
already issued), `results` the registers its rule leaves. A stalled command never ends. A command whose
accesses all answer completes; one that meets an error takes the bus error; one that meets an access that
never ends stalls (70_reset R530); with both outstanding together, which comes first is a free choice
(notes/assumptions/14.md). The results of a command the host raced with are UNDEFINED (20_memory R122, 93
U4). -/
def endWith (r : Running) (x : Exposed) (work : List WorkUnit) (results : Regs) (s : State) :
    Host.Outcome State Fault Refusal :=
  if r.stalled then .next s
  else if x.hangs && (x.errAddrs.isEmpty || Config.hangsFirst s.draws) then .next (stallCommand r s)
  else if r.raced then .fault .hostRace
  else if x.errAddrs.isEmpty then .next (completeCommand (workCells work) results s)
  else .next (busErrorEnd x.errAddrs work s)

/-- A reset abandons the running command (70_reset R502): memory as after a bus error. -/
def abandonWith (work : List WorkUnit) (s : State) : State :=
  { storeCells (abortedCells s.params s.draws work) s with draws := s.draws + 1 }

/-- The bytes of regions whose contents are UNDEFINED after a race: a free value each (20_memory R122).
notes/assumptions/15.md. -/
def undefinedCells (k : Nat) (regions : List Region) : List Host.Cell :=
  regions.flatMap fun q =>
    (List.range q.size).map fun j => (q.base + j, Config.spoiledByte k (q.base + j))

/-- A reset abandons a running command the host raced with: its results, the bytes of its write region, are
free values. -/
def abandonRaced (regions : List Region) (s : State) : State :=
  { storeCells (undefinedCells s.draws regions) s with draws := s.draws + 1 }

/-! ## The start of a command -/

/-- The hidden state at the START of a command: the loops at their first iteration, the accumulator 0
(40_conv R203, R205, 41_dot R255, 43_memcpy R312). -/
def Running.start (i : Instr) : Running where
  cmd := i
  elem := 0
  tap := 0
  chan := 0
  acc := 0#64
  grant := 0
  writes := []
  raced := false
  stalled := false

/-- BUSY ← 1: the command is running (60_exceptions R410). -/
def beginCommand (i : Instr) (s : State) : State :=
  { s with status := s.status.begun, running := some (Running.start i) }

/-- The next event of the order falls inside the command that starts now, so that BUSY = 1 is seen
(60_exceptions R405). notes/assumptions/4.md. -/
def interleaved (s : State) : Bool :=
  match s.pending with
  | .during _ :: _ => true
  | .turn _ :: _ => true
  | _ => false

/-- A command from its accepted START, once decoded (60_exceptions R410): the first start-time check that
fails ends it (R411); an UNDEFINED case faults (93 U1, U2, U3, U5); otherwise BUSY ← 1 and the command
runs, to its end at once when no event falls inside it. `w` is the most units of `work` a step takes. -/
def runCommand (i : Instr) (check : Option (ErrCode × Word)) (undefined : Option Fault) (w : Nat)
    (work : List WorkUnit) (results : Regs) (s : State) : Host.Outcome State Fault Refusal :=
  match check with
  | some e => .next (raiseError e.1 e.2 s)
  | none =>
    match undefined with
    | some f => .fault f
    | none =>
      if interleaved s then .next (beginCommand i s)
      else endWith (Running.start i) (exposed s.params w work) work results (beginCommand i s)

end Sys2Proof.Machine
end

