-- ==== Sys2Proof/Machine/Requant.lean ====
section
/-! DEFINITION. The `requantize_saturate_unit`: RQ and OUTSTAGE (42_requant R281, R283, R284), which the
convolution shares (R288), and the commands RQ_S8 and RQ_S16 (R285, R286). -/

namespace Sys2Proof.Machine

/-- `RQ(x, M, s)` exactly as 42_requant R281 writes it: one rounding, ties toward plus infinity (`/` by
a positive number is `floor` on `Int`). The clear definition; the unit computes with `rqDatapath`. -/
def rq (x m s : Int) : Int :=
  if 1 ≤ 31 - s then (x * m + 2 ^ ((31 - s).toNat - 1)) / 2 ^ (31 - s).toNat
  else x * m * 2 ^ (s - 31).toNat

/-- The bound of the left-shift saturation, K = 33 (42_requant R283 asks for some K ≥ 33). -/
def leftBits : Nat := 33

/-- The datapath 42_requant R283 calls sufficient: 0 for T ≥ 96, an exact rounding shift for T in
[1, 95], and for T ≤ 0 the product saturated to [-2^33, 2^33] (a shift by more than 33 saturates every
product but 0). DEDUCED, safe: notes/assumptions/19.md. -/
def rqDatapath (x m s : Int) : Int :=
  if 96 ≤ 31 - s then 0
  else if 1 ≤ 31 - s then (x * m + 2 ^ ((31 - s).toNat - 1)) / 2 ^ (31 - s).toNat
  else clamp (x * m * 2 ^ min (s - 31).toNat leftBits) (-(2 ^ leftBits)) (2 ^ leftBits)

/-- `OUTSTAGE(x, M, s, ooff, lo, hi)` (42_requant R284), on the datapath of R283. -/
def outstage (x m s ooff lo hi : Int) : Int :=
  clamp (rqDatapath x m s + ooff) lo hi

/-- The accumulator value an RQ command reads: ACC_LO as int32 for RQ_S8, ACC as int64 for RQ_S16
(42_requant R285, R286). -/
def rqOperand (v : Variant) (g : Regs) : Int :=
  match v with
  | .s8 => g.accLo.toInt
  | .s16 => (accPair g).toInt

/-- The value `o` of 42_requant R285 and R286. -/
def rqOutput (v : Variant) (g : Regs) : Int :=
  outstage (rqOperand v g) g.reqMult.toInt g.reqShift.toInt (v.ooff g) g.actMin.toInt g.actMax.toInt

/-- The registers an RQ command leaves: RESULT is the sign-extended `o`, ACC is not changed. -/
def rqResults (v : Variant) (g : Regs) : Regs :=
  setResult (BitVec.ofInt 64 (rqOutput v g)) g

/-- The start-time check of RQ_S8 and RQ_S16 (42_requant R287). -/
def rqCheck (v : Variant) (s : State) : Option (ErrCode × Word) :=
  clampRangeError v.loType v.hiType s.regs

/-- RQ_S8 (42_requant R285), from its accepted START. It makes no memory access (R287). -/
def execRqS8 (s : State) : Host.Outcome State Fault Refusal :=
  runCommand .rqS8 (rqCheck .s8 s) none 1 [] (rqResults .s8 s.regs) s

/-- RQ_S16 (42_requant R286), from its accepted START. It makes no memory access (R287). -/
def execRqS16 (s : State) : Host.Outcome State Fault Refusal :=
  runCommand .rqS16 (rqCheck .s16 s) none 1 [] (rqResults .s16 s.regs) s

end Sys2Proof.Machine
end

