-- ==== Sys2Proof/Machine/Conv.lean ====
section
/-! DEFINITION. The `quantized_2d_conv_engine`: the commands CONV_S8 and CONV_S16 (40_conv R220, R221)
as one parameterised rule (R213), and one step of their loop nest. -/

namespace Sys2Proof.Machine

/-! ## Shapes and regions (40_conv R213, 20_memory R107) -/

/-- Number of output elements, IN_N × OUT_H × OUT_W × OUT_C (R203). -/
def convCount (g : Regs) : Nat :=
  g.inN.toNat * g.outH.toNat * g.outW.toNat * g.outC.toNat

/-- Number of taps of one output element, FLT_KH × FLT_KW (R206). -/
def tapCount (g : Regs) : Nat :=
  g.fltKH.toNat * g.fltKW.toNat

/-- The IN region. -/
def convIn (v : Variant) (g : Regs) : Region :=
  ⟨g.inAddr.toNat, v.es * g.inN.toNat * g.inH.toNat * g.inW.toNat * g.inC.toNat⟩

/-- The FLT region. -/
def convFlt (g : Regs) : Region :=
  ⟨g.fltAddr.toNat, g.fltO.toNat * g.fltKH.toNat * g.fltKW.toNat * g.fltI.toNat⟩

/-- The BIAS region. -/
def convBiasRegion (v : Variant) (g : Regs) : Region :=
  ⟨g.biasAddr.toNat, v.bs * g.fltO.toNat⟩

/-- The MULT region. -/
def convMult (g : Regs) : Region := ⟨g.multAddr.toNat, 4 * g.outC.toNat⟩

/-- The SHIFT region. -/
def convShift (g : Regs) : Region := ⟨g.shiftAddr.toNat, 4 * g.outC.toNat⟩

/-- The OUT region. -/
def convOut (v : Variant) (g : Regs) : Region :=
  ⟨g.outAddr.toNat, v.es * g.outN.toNat * g.outH.toNat * g.outW.toNat * g.outC.toNat⟩

/-- The read regions in the order of 20_memory R107: IN, FLT, BIAS if enabled, MULT, SHIFT. -/
def convReadRegions (v : Variant) (bias : Bool) (g : Regs) : List Region :=
  [convIn v g, convFlt g] ++ (if bias then [convBiasRegion v g] else []) ++ [convMult g, convShift g]

/-- All the regions in the order of 20_memory R107: OUT comes last. -/
def convRegions (v : Variant) (bias : Bool) (g : Regs) : List Region :=
  convReadRegions v bias g ++ [convOut v g]

/-! ## Checks (40_conv R202) and UNDEFINED cases -/

/-- Checks 2 to 5 of 40_conv R202, in order. -/
def convShapeError (g : Regs) : Option (ErrCode × Word) :=
  if g.strideH = 0#16 ∨ g.strideW = 0#16 ∨ g.dilH = 0#16 ∨ g.dilW = 0#16 then some (.paramRange, 0#32)
  else if g.inC ≠ g.fltI then some (.cinMismatch, 0#32)
  else if g.fltO ≠ g.outC then some (.coutMismatch, 0#32)
  else if g.outN ≠ g.inN then some (.batchMismatch, 0#32)
  else none

/-- The start-time checks of CONV_S8 and CONV_S16, first failure first (40_conv R202, 60_exceptions
R404). -/
def convCheck (v : Variant) (bias : Bool) (s : State) : Option (ErrCode × Word) :=
  (clampRangeError v.loType v.hiType s.regs).or
    ((convShapeError s.regs).or (addrRangeError (convRegions v bias s.regs)))

/-- The reduction depth FLT_KH × FLT_KW × IN_C (40_conv R215). -/
def convDepth (g : Regs) : Nat :=
  g.fltKH.toNat * g.fltKW.toNat * g.inC.toNat

/-- UNDEFINED(ACC_DEPTH): CONV_S8 with a depth of 65536 or more (40_conv R213, R215). -/
def convTooDeep (v : Variant) (g : Regs) : Bool :=
  match v with
  | .s8 => decide (65536 ≤ convDepth g)
  | .s16 => false

/-- The UNDEFINED cases of CONV: depth (40_conv R215), aliasing (20_memory R124), regions that are not
ordinary memory (20_memory R106). -/
def convUndefined (v : Variant) (bias : Bool) (s : State) : Option Fault :=
  if convTooDeep v s.regs then some .accDepth
  else if (convReadRegions v bias s.regs).any ((convOut v s.regs).overlaps ·) then some .outAliased
  else ordinaryFault s.params (convRegions v bias s.regs)

/-! ## The loop position: coordinates of an output element and of a tap (40_conv R203, R206) -/

/-- `b` of output element `e`. -/
def outBatch (g : Regs) (e : Nat) : Nat := e / (g.outH.toNat * g.outW.toNat * g.outC.toNat)

/-- `out_y` of output element `e`. -/
def outY (g : Regs) (e : Nat) : Nat := e / (g.outW.toNat * g.outC.toNat) % g.outH.toNat

/-- `out_x` of output element `e`. -/
def outX (g : Regs) (e : Nat) : Nat := e / g.outC.toNat % g.outW.toNat

/-- `out_c` of output element `e`. -/
def outC (g : Regs) (e : Nat) : Nat := e % g.outC.toNat

/-- `ky` of tap `t`. -/
def tapKy (g : Regs) (t : Nat) : Nat := t / g.fltKW.toNat

/-- `kx` of tap `t`. -/
def tapKx (g : Regs) (t : Nat) : Nat := t % g.fltKW.toNat

/-- `in_y = out_y*STRIDE_H - PAD_H + DIL_H*ky`, an exact integer (40_conv R204, R206). -/
def tapInY (g : Regs) (e t : Nat) : Int :=
  (outY g e : Int) * g.strideH.toNat - g.padH.toNat + g.dilH.toNat * tapKy g t

/-- `in_x = out_x*STRIDE_W - PAD_W + DIL_W*kx`, an exact integer (40_conv R204, R206). -/
def tapInX (g : Regs) (e t : Nat) : Int :=
  (outX g e : Int) * g.strideW.toNat - g.padW.toNat + g.dilW.toNat * tapKx g t

/-- The tap is in bounds: 0 ≤ in_y < IN_H and 0 ≤ in_x < IN_W (40_conv R206). -/
def tapInside (g : Regs) (e t : Nat) : Bool :=
  decide (0 ≤ tapInY g e t ∧ tapInY g e t < g.inH.toNat ∧ 0 ≤ tapInX g e t ∧ tapInX g e t < g.inW.toNat)

/-- `pa`: the address of input element (b, in_y, in_x, 0) of an in-bounds tap (40_conv R207). -/
def tapInAddr (v : Variant) (g : Regs) (e t : Nat) : Nat :=
  g.inAddr.toNat + v.es *
    (((outBatch g e * g.inH.toNat + (tapInY g e t).toNat) * g.inW.toNat + (tapInX g e t).toNat) *
      g.inC.toNat)

/-- `pf`: the address of filter element (out_c, ky, kx, 0) (40_conv R207). -/
def tapFltAddr (g : Regs) (e t : Nat) : Nat :=
  g.fltAddr.toNat +
    ((outC g e * g.fltKH.toNat + tapKy g t) * g.fltKW.toNat + tapKx g t) * g.inC.toNat

/-- The address of output element `e`, whose index in the tensor is `e` (40_conv R212, 00_scope R16). -/
def outElemAddr (v : Variant) (g : Regs) (e : Nat) : Nat :=
  g.outAddr.toNat + v.es * e

/-! ## One output element (40_conv R204 to R212) -/

/-- The channel reduction of an in-bounds tap over channels lo .. lo+n-1 (40_conv R207). -/
def tapSum (v : Variant) (s : State) (e t lo n : Nat) : Int :=
  reduce s v (tapInAddr v s.regs e t) (tapFltAddr s.regs e t) (v.ioff s.regs) lo n

/-- The accumulator after a tap from channel `lo` on: a padded tap, and a tap with no channel left, adds
nothing (40_conv R206, R207). -/
def accTap (v : Variant) (s : State) (e : Nat) (acc : BitVec 64) (t lo : Nat) : BitVec 64 :=
  if tapInside s.regs e t = true ∧ lo < s.regs.inC.toNat then
    accWrap v (acc.toInt + tapSum v s e t lo (s.regs.inC.toNat - lo))
  else acc

/-- The accumulator of element `e` after its remaining taps, from tap `t` and channel `lo` on (40_conv
R206, R207). -/
def accFrom (v : Variant) (s : State) (e t lo : Nat) (acc : BitVec 64) : BitVec 64 :=
  if t < tapCount s.regs then
    (List.range' (t + 1) (tapCount s.regs - (t + 1))).foldl (fun a u => accTap v s e a u 0)
      (accTap v s e acc t lo)
  else acc

/-- The bias add (40_conv R208). -/
def accBias (v : Variant) (bias : Bool) (s : State) (e : Nat) (acc : BitVec 64) : BitVec 64 :=
  if bias then accWrap v (acc.toInt + loadS s (s.regs.biasAddr.toNat + v.bs * outC s.regs e) v.bs)
  else acc

/-- The output value of element `e` from its accumulator (40_conv R209 to R211). -/
def convValue (v : Variant) (s : State) (e : Nat) (acc : BitVec 64) : Int :=
  outstage acc.toInt (loadS s (s.regs.multAddr.toNat + 4 * outC s.regs e) 4)
    (loadS s (s.regs.shiftAddr.toNat + 4 * outC s.regs e) 4) (v.ooff s.regs)
    s.regs.actMin.toInt s.regs.actMax.toInt

/-- The bytes of element `e` from its accumulator before the bias (40_conv R208 to R212). -/
def convCells (v : Variant) (bias : Bool) (s : State) (e : Nat) (acc : BitVec 64) : List Host.Cell :=
  elementCells (outElemAddr v s.regs e) v.es (convValue v s e (accBias v bias s e acc))

/-- The reads of an in-bounds tap from channel `lo` on, n channels (40_conv R217). -/
def tapReads (v : Variant) (g : Regs) (e t lo n : Nat) : List Access :=
  (List.range' lo n).flatMap fun i =>
    [⟨tapInAddr v g e t + v.es * i, v.es⟩, ⟨tapFltAddr g e t + i, 1⟩]

/-- The reads of the output stage: bias if enabled, multiplier, shift (40_conv R217). -/
def stageReads (v : Variant) (bias : Bool) (g : Regs) (e : Nat) : List Access :=
  (if bias then [⟨g.biasAddr.toNat + v.bs * outC g e, v.bs⟩] else []) ++
    [⟨g.multAddr.toNat + 4 * outC g e, 4⟩, ⟨g.shiftAddr.toNat + 4 * outC g e, 4⟩]

/-- The reads of tap `t` from channel `lo` on: none for a padded tap (40_conv R206, R217). -/
def tapReadsFrom (v : Variant) (g : Regs) (e t lo : Nat) : List Access :=
  if tapInside g e t = true ∧ lo < g.inC.toNat then tapReads v g e t lo (g.inC.toNat - lo) else []

/-- The reads of output element `e` from tap `t`, channel `lo` on; with t = lo = 0 its read set
(40_conv R217). -/
def elemReads (v : Variant) (bias : Bool) (g : Regs) (e t lo : Nat) : List Access :=
  (if t < tapCount g then
    tapReadsFrom v g e t lo ++
      (List.range' (t + 1) (tapCount g - (t + 1))).flatMap (fun u => tapReadsFrom v g e u 0)
  else []) ++ stageReads v bias g e

/-- Output element `e` as a unit of work, resumed at tap `t`, channel `lo` with accumulator `acc`. -/
def convUnit (v : Variant) (bias : Bool) (s : State) (e t lo : Nat) (acc : BitVec 64) : WorkUnit where
  reads := elemReads v bias s.regs e t lo
  writes := [⟨outElemAddr v s.regs e, v.es⟩]
  cells := convCells v bias s e (accFrom v s e t lo acc)

/-- What is left of a running convolution, in loop order (40_conv R203): the writes already issued, the
element in progress, then the elements not begun, each with a fresh accumulator (R205). -/
def convWork (v : Variant) (bias : Bool) (r : Running) (s : State) : List WorkUnit :=
  ⟨[], [], r.writes⟩ ::
    if r.elem < convCount s.regs then
      convUnit v bias s r.elem r.tap r.chan r.acc ::
        (List.range' (r.elem + 1) (convCount s.regs - (r.elem + 1))).map
          (fun e => convUnit v bias s e 0 0 0#64)
    else []

/-! ## One step of the loop nest (10_state R55, 41_dot R255) -/

/-- One internal step: a vector step of the current tap, or on to the next tap when its channels are
done or it is padded, or the output stage and store when the taps are done. -/
def convTurn (v : Variant) (bias : Bool) (ask : Nat) (r : Running) (s : State) : Running :=
  if r.elem < convCount s.regs then
    if r.tap < tapCount s.regs then
      if tapInside s.regs r.elem r.tap = true ∧ r.chan < s.regs.inC.toNat then
        let vl := granted ask (s.regs.inC.toNat - r.chan) (v.vlmax s.params)
        { r with
          acc := accWrap v (r.acc.toInt + tapSum v s r.elem r.tap r.chan vl)
          chan := r.chan + vl
          grant := vl }
      else { r with tap := r.tap + 1, chan := 0 }
    else
      { r with
        writes := r.writes ++ convCells v bias s r.elem r.acc
        elem := r.elem + 1
        tap := 0
        chan := 0
        acc := 0#64 }
  else r

/-- The accesses one internal step makes, as a unit of work. -/
def convTurnUnit (v : Variant) (bias : Bool) (ask : Nat) (r : Running) (s : State) : WorkUnit :=
  if r.elem < convCount s.regs then
    if r.tap < tapCount s.regs then
      if tapInside s.regs r.elem r.tap = true ∧ r.chan < s.regs.inC.toNat then
        ⟨tapReads v s.regs r.elem r.tap r.chan
          (granted ask (s.regs.inC.toNat - r.chan) (v.vlmax s.params)), [], []⟩
      else ⟨[], [], []⟩
    else ⟨stageReads v bias s.regs r.elem, [⟨outElemAddr v s.regs r.elem, v.es⟩], []⟩
  else ⟨[], [], []⟩

/-! ## The two commands -/

/-- CONV_S8 (40_conv R220), from its accepted START: RESULT and ACC are left alone (R219). -/
def execConvS8 (bias : Bool) (s : State) : Host.Outcome State Fault Refusal :=
  runCommand (.convS8 bias) (convCheck .s8 bias s) (convUndefined .s8 bias s) 1
    (convWork .s8 bias (Running.start (.convS8 bias)) s) s.regs s

/-- CONV_S16 (40_conv R221), from its accepted START: RESULT and ACC are left alone (R219). -/
def execConvS16 (bias : Bool) (s : State) : Host.Outcome State Fault Refusal :=
  runCommand (.convS16 bias) (convCheck .s16 bias s) (convUndefined .s16 bias s) 1
    (convWork .s16 bias (Running.start (.convS16 bias)) s) s.regs s

end Sys2Proof.Machine
end

