-- ==== Sys2Proof/Machine/Dot.lean ====
section
/-! DEFINITION. The `vectorized_dot_product_accumulator`: the commands DOT_S8 and DOT_S16 (41_dot R257,
R258) and one step of their vector loop (R255). -/

namespace Sys2Proof.Machine

/-- The regions of a DOT command: A, then B (20_memory R107, 41_dot R259). -/
def dotRegions (v : Variant) (g : Regs) : List Region :=
  [⟨g.dotA.toNat, v.es * g.dotLen.toNat⟩, ⟨g.dotB.toNat, g.dotLen.toNat⟩]

/-- The start-time check of DOT_S8 and DOT_S16 (41_dot R259). -/
def dotCheck (v : Variant) (s : State) : Option (ErrCode × Word) :=
  addrRangeError (dotRegions v s.regs)

/-- Lane `i` of a DOT: one element of each operand is read (20_memory R104), no memory is written. -/
def dotUnit (v : Variant) (g : Regs) (i : Nat) : WorkUnit where
  reads := [⟨g.dotA.toNat + v.es * i, v.es⟩, ⟨g.dotB.toNat + i, 1⟩]
  writes := []
  cells := []

/-- What is left of a running DOT: its remaining lanes, ascending. -/
def dotWork (v : Variant) (r : Running) (s : State) : List WorkUnit :=
  (List.range' r.chan (s.regs.dotLen.toNat - r.chan)).map (dotUnit v s.regs)

/-- The sum of lanes lo .. lo+n-1 of the operand vectors (41_dot R252). -/
def dotSum (v : Variant) (s : State) (lo n : Nat) : Int :=
  reduce s v s.regs.dotA.toNat s.regs.dotB.toNat (v.ioff s.regs) lo n

/-- The value the sum is added to: 0 with ACC_CLR, else ACC_LO as int32 (DOT_S8) or ACC as int64
(DOT_S16) (41_dot R257, R258). ACC is read once and cannot change while BUSY = 1 (R260). -/
def dotBase (v : Variant) (clr : Bool) (g : Regs) : Int :=
  if clr then 0
  else match v with
    | .s8 => g.accLo.toInt
    | .s16 => (accPair g).toInt

/-- The new ACC: base plus the sum so far plus the lanes left, wrapped to the accumulator's width; for
DOT_S8 ACC_HI is its sign extension (41_dot R257, R258). -/
def dotAcc (v : Variant) (clr : Bool) (r : Running) (s : State) : BitVec 64 :=
  accWrap v (dotBase v clr s.regs + (r.acc.toInt + dotSum v s r.chan (s.regs.dotLen.toNat - r.chan)))

/-- The registers a DOT leaves: ACC and RESULT both hold the sum (41_dot R257, R258, 10_state R39). -/
def dotResults (v : Variant) (clr : Bool) (r : Running) (s : State) : Regs :=
  setResult (dotAcc v clr r s) (setAcc (dotAcc v clr r s) s.regs)

/-- One step of the vector loop (41_dot R255): the unit grants a length, sums that many lanes into the
running sum and advances by what was granted. The sum is kept in Wacc bits (R252). -/
def dotTurn (v : Variant) (ask : Nat) (r : Running) (s : State) : Running :=
  if r.chan < s.regs.dotLen.toNat then
    let vl := granted ask (s.regs.dotLen.toNat - r.chan) (v.vlmax s.params)
    { r with
      acc := accWrap v (r.acc.toInt + dotSum v s r.chan vl)
      chan := r.chan + vl
      grant := vl }
  else r

/-- The reads one step of the vector loop makes, as a unit of work. -/
def dotTurnUnit (v : Variant) (ask : Nat) (r : Running) (s : State) : WorkUnit :=
  if r.chan < s.regs.dotLen.toNat then
    .joined ((List.range' r.chan (granted ask (s.regs.dotLen.toNat - r.chan) (v.vlmax s.params))).map
      (dotUnit v s.regs))
  else .joined []

/-- DOT_S8 (41_dot R257), from its accepted START. -/
def execDotS8 (clr : Bool) (s : State) : Host.Outcome State Fault Refusal :=
  runCommand (.dotS8 clr) (dotCheck .s8 s) (ordinaryFault s.params (dotRegions .s8 s.regs))
    (Variant.vlmax .s8 s.params)
    (dotWork .s8 (Running.start (.dotS8 clr)) s)
    (dotResults .s8 clr (Running.start (.dotS8 clr)) s) s

/-- DOT_S16 (41_dot R258), from its accepted START. -/
def execDotS16 (clr : Bool) (s : State) : Host.Outcome State Fault Refusal :=
  runCommand (.dotS16 clr) (dotCheck .s16 s) (ordinaryFault s.params (dotRegions .s16 s.regs))
    (Variant.vlmax .s16 s.params)
    (dotWork .s16 (Running.start (.dotS16 clr)) s)
    (dotResults .s16 clr (Running.start (.dotS16 clr)) s) s

end Sys2Proof.Machine
end

