-- ==== Sys2Proof/Machine/Memcpy.lean ====
section
/-! DEFINITION. The `vectorized_memcpy_simd`: the command MEMCPY (43_memcpy R311) and one step of its
copy loop (R312). -/

namespace Sys2Proof.Machine

/-- The source region (20_memory R107). -/
def copySource (g : Regs) : Region := ⟨g.cpySrc.toNat, g.cpyLen.toNat⟩

/-- The destination region (20_memory R107). -/
def copyDest (g : Regs) : Region := ⟨g.cpyDst.toNat, g.cpyLen.toNat⟩

/-- The start-time check of MEMCPY: ADDR_RANGE over SRC, then DST (43_memcpy R316). -/
def copyCheck (s : State) : Option (ErrCode × Word) :=
  addrRangeError [copySource s.regs, copyDest s.regs]

/-- The UNDEFINED cases of MEMCPY: overlapping regions (43_memcpy R313), regions that are not ordinary
memory (20_memory R106). -/
def copyUndefined (s : State) : Option Fault :=
  if (copySource s.regs).overlaps (copyDest s.regs) then some .copyOverlap
  else ordinaryFault s.params [copySource s.regs, copyDest s.regs]

/-- Byte `j` of the copy: read at the source, written at the destination (43_memcpy R312). -/
def copyUnit (s : State) (j : Nat) : WorkUnit where
  reads := [⟨s.regs.cpySrc.toNat + j, 1⟩]
  writes := [⟨s.regs.cpyDst.toNat + j, 1⟩]
  cells := [(s.regs.cpyDst.toNat + j, engineByte s (s.regs.cpySrc.toNat + j))]

/-- What is left of a running copy: the writes already issued, then the remaining bytes, ascending. -/
def copyWork (r : Running) (s : State) : List WorkUnit :=
  ⟨[], [], r.writes⟩ :: (List.range' r.chan (s.regs.cpyLen.toNat - r.chan)).map (copyUnit s)

/-- The registers MEMCPY leaves: RESULT = {0, CPY_DST} (43_memcpy R311). -/
def copyResults (g : Regs) : Regs :=
  setResult (0#32 ++ g.cpyDst) g

/-- One step of the copy loop (43_memcpy R312): a granted length is loaded, then stored. -/
def copyTurn (ask : Nat) (r : Running) (s : State) : Running :=
  if r.chan < s.regs.cpyLen.toNat then
    let vl := granted ask (s.regs.cpyLen.toNat - r.chan) s.params.vlb.toNat
    { r with
      writes := r.writes ++ workCells ((List.range' r.chan vl).map (copyUnit s))
      chan := r.chan + vl
      grant := vl }
  else r

/-- The accesses of one step of the copy loop, as a unit of work: all reads, then all writes. -/
def copyTurnUnit (ask : Nat) (r : Running) (s : State) : WorkUnit :=
  if r.chan < s.regs.cpyLen.toNat then
    .joined ((List.range' r.chan (granted ask (s.regs.cpyLen.toNat - r.chan) s.params.vlb.toNat)).map
      (copyUnit s))
  else .joined []

/-- MEMCPY (43_memcpy R311), from its accepted START. -/
def execMemcpy (s : State) : Host.Outcome State Fault Refusal :=
  runCommand .memcpy (copyCheck s) (copyUndefined s) s.params.vlb.toNat
    (copyWork (Running.start .memcpy) s) (copyResults s.regs) s

end Sys2Proof.Machine
end

