-- ==== Sys2Proof/Machine/Dispatch.lean ====
section
/-! DEFINITION. The meaning of each command, from its accepted and decoded START (60_exceptions R410). -/

namespace Sys2Proof.Machine

def exec (i : Instr) (s : State) : Host.Outcome State Fault Refusal :=
  match i with
  | .convS8 bias => Sys2Proof.Machine.execConvS8 bias s
  | .convS16 bias => Sys2Proof.Machine.execConvS16 bias s
  | .dotS8 clr => Sys2Proof.Machine.execDotS8 clr s
  | .dotS16 clr => Sys2Proof.Machine.execDotS16 clr s
  | .rqS8 => Sys2Proof.Machine.execRqS8 s
  | .rqS16 => Sys2Proof.Machine.execRqS16 s
  | .memcpy => Sys2Proof.Machine.execMemcpy s

end Sys2Proof.Machine
end

