-- ==== Sys2Proof/Machine/Engine.lean ====
section
/-! DEFINITION. The running command: the regions it uses, what is left of it, its end event, one internal
step of it (10_state R55, 60_exceptions R405), and its abandonment by a reset (70_reset R502). -/

namespace Sys2Proof.Machine

/-- The read regions of a command (20_memory R107). -/
def readRegions (i : Instr) (g : Regs) : List Region :=
  match i with
  | .convS8 bias => convReadRegions .s8 bias g
  | .convS16 bias => convReadRegions .s16 bias g
  | .dotS8 _ => dotRegions .s8 g
  | .dotS16 _ => dotRegions .s16 g
  | .rqS8 => []
  | .rqS16 => []
  | .memcpy => [copySource g]

/-- The write region of a command: OUT for CONV, DST for MEMCPY, none for the others (60_exceptions
R412). -/
def writeRegions (i : Instr) (g : Regs) : List Region :=
  match i with
  | .convS8 _ => [convOut .s8 g]
  | .convS16 _ => [convOut .s16 g]
  | .dotS8 _ => []
  | .dotS16 _ => []
  | .rqS8 => []
  | .rqS16 => []
  | .memcpy => [copyDest g]

/-- The start-time checks of a command (60_exceptions R404). -/
def startCheck (i : Instr) (s : State) : Option (ErrCode × Word) :=
  match i with
  | .convS8 bias => convCheck .s8 bias s
  | .convS16 bias => convCheck .s16 bias s
  | .dotS8 _ => dotCheck .s8 s
  | .dotS16 _ => dotCheck .s16 s
  | .rqS8 => rqCheck .s8 s
  | .rqS16 => rqCheck .s16 s
  | .memcpy => copyCheck s

/-- The UNDEFINED cases of a command at its START (60_exceptions R406, 93 U1, U2, U3, U5). -/
def startUndefined (i : Instr) (s : State) : Option Fault :=
  match i with
  | .convS8 bias => convUndefined .s8 bias s
  | .convS16 bias => convUndefined .s16 bias s
  | .dotS8 _ => ordinaryFault s.params (dotRegions .s8 s.regs)
  | .dotS16 _ => ordinaryFault s.params (dotRegions .s16 s.regs)
  | .rqS8 => none
  | .rqS16 => none
  | .memcpy => copyUndefined s

/-- What is left of the running command. -/
def workLeft (r : Running) (s : State) : List WorkUnit :=
  match r.cmd with
  | .convS8 bias => convWork .s8 bias r s
  | .convS16 bias => convWork .s16 bias r s
  | .dotS8 _ => dotWork .s8 r s
  | .dotS16 _ => dotWork .s16 r s
  | .rqS8 => []
  | .rqS16 => []
  | .memcpy => copyWork r s

/-- The registers the running command leaves at completion. -/
def resultRegs (r : Running) (s : State) : Regs :=
  match r.cmd with
  | .convS8 _ => s.regs
  | .convS16 _ => s.regs
  | .dotS8 clr => dotResults .s8 clr r s
  | .dotS16 clr => dotResults .s16 clr r s
  | .rqS8 => rqResults .s8 s.regs
  | .rqS16 => rqResults .s16 s.regs
  | .memcpy => copyResults s.regs

/-- The most units of a command's work that one step takes: one output element of CONV, VL8 or VL16 lanes of
DOT, VLB bytes of MEMCPY (41_dot R255, 43_memcpy R312). -/
def stepWindow (i : Instr) (p : Params) : Nat :=
  match i with
  | .convS8 _ => 1
  | .convS16 _ => 1
  | .dotS8 _ => Variant.vlmax .s8 p
  | .dotS16 _ => Variant.vlmax .s16 p
  | .rqS8 => 1
  | .rqS16 => 1
  | .memcpy => p.vlb.toNat

/-- What the running command meets on its way to its end, over all grants. -/
def exposedLeft (r : Running) (s : State) : Exposed :=
  exposed s.params (stepWindow r.cmd s.params) (workLeft r s)

/-- The end event of the running command (60_exceptions R412, R413). -/
def endCommand (r : Running) (s : State) : Host.Outcome State Fault Refusal :=
  endWith r (exposedLeft r s) (workLeft r s) (resultRegs r s) s

/-- The hidden state after one internal step, with the grant asked for. -/
def turnRunning (ask : Nat) (r : Running) (s : State) : Running :=
  match r.cmd with
  | .convS8 bias => convTurn .s8 bias ask r s
  | .convS16 bias => convTurn .s16 bias ask r s
  | .dotS8 _ => dotTurn .s8 ask r s
  | .dotS16 _ => dotTurn .s16 ask r s
  | .rqS8 => r
  | .rqS16 => r
  | .memcpy => copyTurn ask r s

/-- The accesses one internal step makes. -/
def turnUnit (ask : Nat) (r : Running) (s : State) : WorkUnit :=
  match r.cmd with
  | .convS8 bias => convTurnUnit .s8 bias ask r s
  | .convS16 bias => convTurnUnit .s16 bias ask r s
  | .dotS8 _ => dotTurnUnit .s8 ask r s
  | .dotS16 _ => dotTurnUnit .s16 ask r s
  | .rqS8 => .joined []
  | .rqS16 => .joined []
  | .memcpy => copyTurnUnit ask r s

/-- One internal step of the running command. A step whose accesses all answer advances the loop
position; one that meets an error ends the command (60_exceptions R412), one that meets an access that
never ends stalls it (70_reset R530). A stalled command makes no further step. -/
def engineTurn (ask : Nat) (r : Running) (s : State) : Host.Outcome State Fault Refusal :=
  if r.stalled then .next s
  else if (turnUnit ask r s).answers s.params then
    .next { s with running := some (turnRunning ask r s) }
  else endWith r (exposed s.params 1 [turnUnit ask r s]) (workLeft r s) (resultRegs r s) s

/-- Hard and soft reset (70_reset R500, R503): every register at its reset value; a running command is
abandoned (R502), with free bytes in its write region when the host raced with it (20_memory R122). -/
def resetBlock (s : State) : State :=
  match s.running with
  | none => resetRegisters s
  | some r =>
    if r.raced then resetRegisters (abandonRaced (writeRegions r.cmd s.regs) s)
    else resetRegisters (abandonWith (workLeft r s) s)

end Sys2Proof.Machine
end

