-- ==== Sys2Proof/Machine/HostAccess.lean ====
section
/-! DEFINITION. What the host and the platform do to the block: register accesses (10_state R50 to R53),
the writes of CTRL and STATUS (R35, R37, 60_exceptions R410), data-space accesses and cache operations of
the host (20_memory R120 to R128, 70_reset R524), and the hard reset (70_reset R500). -/

namespace Sys2Proof.Machine

/-- The slave port's answer to the host. -/
def respond (a : Response) (s : State) : State :=
  { s with response := a }

/-! ## Where a host access goes (10_state R50, R58) -/

/-- The target of a host access. -/
inductive Target where
  /-- A register of the block. -/
  | reg (r : Reg)
  /-- A reserved offset of the block (10_state R49). -/
  | reserved
  /-- An access the block or the bus answers with an error: not 32-bit, not 4-byte aligned, or beyond
  the address space (10_state R50, R58). -/
  | error
  /-- The data space. -/
  | data
  deriving DecidableEq, Repr

/-- Which target a host access of a width at a bus address has. An access that touches the block counts
as a register access (notes/assumptions/21.md). -/
def targetOf (p : Params) (addr : Word) (w : Width) : Target :=
  if 2 ^ 32 < addr.toNat + w.bytes then .error
  else if Region.overlaps ⟨addr.toNat, w.bytes⟩ (blockRegion p) then
    if w = .w32 ∧ p.engineBase.toNat ≤ addr.toNat ∧ (addr.toNat - p.engineBase.toNat) % 4 = 0 then
      match regAt (addr.toNat - p.engineBase.toNat) with
      | some r => .reg r
      | none => .reserved
    else .error
  else .data

/-! ## Register reads (10_state R52, R53) -/

/-- The registers whose value is unspecified while BUSY = 1 (10_state R52). -/
def openWhileBusy : Reg → Bool
  | .accLo => true
  | .accHi => true
  | .resultLo => true
  | .resultHi => true
  | .errAddr => true
  | _ => false

/-- A register read: no register changes (10_state R53). While BUSY = 1 a register of R52 reads as a free
value. -/
def hostReadReg (r : Reg) (s : State) : State :=
  if s.status.busy && openWhileBusy r then
    respond (.data ((Config.freeWord s.draws).setWidth 64)) { s with draws := s.draws + 1 }
  else respond (.data ((readReg r s).setWidth 64)) s

/-! ## Register writes (10_state R35 to R37, R51, 60_exceptions R410) -/

/-- A START that is accepted: its flags are cleared, the command word is decoded, and the command starts
or ILLEGAL_CMD is reported (60_exceptions R410). -/
def startCommand (s : State) : Host.Outcome State Fault Refusal :=
  match decode s.regs.cmd with
  | .error _ => .next (raiseError .illegalCmd 0#32 (acceptStart s))
  | .ok i => exec i (acceptStart s)

/-- A host write to CTRL (10_state R35, R51, 60_exceptions R410, 70_reset R503). -/
def writeCtrl (w : Word) (s : State) : Host.Outcome State Fault Refusal :=
  if w.getLsbD 31 then .next (resetBlock s)
  else if s.status.busy then .next (ignoreWrite s)
  else if w.getLsbD 0 then startCommand (storeEnables w s)
  else .next (storeEnables w s)

/-- A host write to a register. While BUSY = 1 only STATUS and CTRL.SRST are written; any other write to
a register is dropped and sets IGN (10_state R51; notes/assumptions/16.md). -/
def hostWriteReg (r : Reg) (w : Word) (s : State) : Host.Outcome State Fault Refusal :=
  match r with
  | .ctrl => writeCtrl w s
  | .status => .next (writeStatus w s)
  | r =>
    if s.status.busy then .next (ignoreWrite s)
    else .next { s with regs := writeReg r w s.regs }

/-! ## The host's view of the data space (20_memory R120 to R122, R128) -/

/-- The byte a host read sees. With COHERENT = false a byte the engine wrote and the host has not
invalidated is a free value (70_reset R524; notes/assumptions/17.md). -/
def hostByte (s : State) (a : Nat) : Byte :=
  if !s.params.coherent && s.stale.contains a then Config.staleByte s.draws a else s.mem.read a

/-- n bytes assembled little-endian from a byte function. -/
def assemble (byte : Nat → Byte) : Nat → Nat → Nat
  | _, 0 => 0
  | a, n + 1 => (byte a).toNat + 256 * assemble byte (a + 1) n

/-- The host touches a region of the running command that it may not touch: the command's results become
UNDEFINED (20_memory R122, 93 U4; notes/assumptions/15.md). -/
def markRace (touches : Running → Bool) (s : State) : State :=
  match s.running with
  | none => s
  | some r => { s with running := some { r with raced := r.raced || touches r } }

/-- Does a range overlap the write region of a command? -/
def touchesWriteRegion (g : Regs) (q : Region) (r : Running) : Bool :=
  (writeRegions r.cmd g).any (q.overlaps ·)

/-- Does a range overlap any region of a command? -/
def touchesAnyRegion (g : Regs) (q : Region) (r : Running) : Bool :=
  (readRegions r.cmd g ++ writeRegions r.cmd g).any (q.overlaps ·)

/-- The running command's write region as the host may not read it: is address `a` in it? -/
def racingRead (s : State) (a : Nat) : Bool :=
  match s.running with
  | none => false
  | some r => (writeRegions r.cmd s.regs).any (·.covers a)

/-- The byte a host read returns: any value inside the running command's write region (93 U4). -/
def hostReadByte (s : State) (a : Nat) : Byte :=
  if racingRead s a then Config.staleByte s.draws a else hostByte s a

/-- A host load from the data space. With any byte in a range of kind `errorOnRead` it gets an error response
and no data (DESIGN CHOICE: the spec gives error responses for the master port only); a load that races
is a race whatever it is answered (20_memory R122). notes/assumptions/26.md. -/
def hostReadData (q : Region) (s : State) : Host.Outcome State Fault Refusal :=
  let x : Access := ⟨q.base, q.size⟩
  if x.addrs.any (answersAs s.params .device) || x.hangs s.params then .refused .hostDeviceAccess
  else if !(x.errAddrs s.params .errorOnRead).isEmpty then
    .next (respond .busError (markRace (touchesWriteRegion s.regs q) s))
  else
    .next (respond (.data (BitVec.ofNat 64 (assemble (hostReadByte s) q.base q.size)))
      { markRace (touchesWriteRegion s.regs q) s with draws := s.draws + 1 })

/-- A host store reaches memory at once when COHERENT = true; otherwise it may stay in the host's caches
until it is written back (20_memory R120). -/
def hostStore (cells : List Host.Cell) (s : State) : State :=
  let addrs := cells.map (·.1)
  { s with
    mem := s.mem.writeCells cells
    unclean := if s.params.coherent then s.unclean else addrs.foldl insertAddr s.unclean
    stale := if s.params.coherent then s.stale else s.stale.filter (!addrs.contains ·) }

/-- A host store to the data space. With any byte in a range of kind `errorOnWrite` it gets an error response
and stores no byte (DESIGN CHOICE: the spec gives error responses for the master port only); a store that
races is a race whatever it is answered (20_memory R122). notes/assumptions/26.md. -/
def hostWriteData (q : Region) (value : BitVec 64) (s : State) : Host.Outcome State Fault Refusal :=
  let x : Access := ⟨q.base, q.size⟩
  if x.addrs.any (answersAs s.params .device) || x.hangs s.params then .refused .hostDeviceAccess
  else if !(x.errAddrs s.params .errorOnWrite).isEmpty then
    .next (respond .busError (markRace (touchesAnyRegion s.regs q) s))
  else
    .next (respond .done
      (hostStore (elementCells q.base q.size value.toInt) (markRace (touchesAnyRegion s.regs q) s)))

/-! ## Cache operations of the host (70_reset R524) -/

/-- Give free values to the bytes at some addresses (notes/assumptions/17.md). -/
def loseBytes (addrs : List Nat) (s : State) : State :=
  { s with
    mem := s.mem.writeCells (addrs.map fun a => (a, Config.lostByte s.draws a))
    draws := s.draws + 1 }

/-- The host writes back its cache lines over a range: the engine sees the host's bytes from here on
(20_memory R120). A byte the engine has also written holds a free value afterwards, and a write-back into
a region of a running command is a race (R122). -/
def hostClean (q : Region) (s : State) : State :=
  if s.params.coherent then s
  else
    let back := s.unclean.filter q.covers
    let raced := markRace (fun r => back.any fun a => touchesAnyRegion s.regs ⟨a, 1⟩ r) s
    { loseBytes (back.filter s.stale.contains) raced with
      unclean := s.unclean.filter (!q.covers ·) }

/-- The host invalidates its cache lines over a range: it sees the engine's bytes from here on (20_memory
R121). A byte it had not written back is lost and holds a free value. DESIGN CHOICE (R524 forbids a dirty line
over the write region of a running command and states no consequence): such a byte, invalidated while BUSY =
1, marks no race, and the value the engine stores there stands after completion.
notes/assumptions/17.md. -/
def hostInvalidate (q : Region) (s : State) : State :=
  if s.params.coherent then s
  else
    { loseBytes (s.unclean.filter q.covers) s with
      unclean := s.unclean.filter (!q.covers ·)
      stale := s.stale.filter (!q.covers ·) }

/-! ## Host events -/

/-- The range lies inside the register block (10_state R58). -/
def insideBlock (p : Params) (q : Region) : Bool :=
  decide (p.engineBase.toNat ≤ q.base ∧ q.base + q.size ≤ p.engineBase.toNat + 0x100)

/-- A host access that gets an error response for its form (10_state R50; notes/assumptions/21.md) changes no
register and no byte. Where a part of it lies in the data space it is a race like any other access of
those bytes (20_memory R122; notes/assumptions/15.md). -/
def strayAccess (touches : Running → Bool) (q : Region) (s : State) : State :=
  respond .busError (if insideBlock s.params q then s else markRace touches s)

/-- A host load (10_state R50, R58). -/
def hostRead (addr : Word) (w : Width) (s : State) : Host.Outcome State Fault Refusal :=
  match targetOf s.params addr w with
  | .error =>
    .next (strayAccess (touchesWriteRegion s.regs ⟨addr.toNat, w.bytes⟩) ⟨addr.toNat, w.bytes⟩ s)
  | .reserved => .next (respond (.data 0#64) s)
  | .reg r => .next (hostReadReg r s)
  | .data => hostReadData ⟨addr.toNat, w.bytes⟩ s

/-- A host store (10_state R50, R58). -/
def hostWrite (addr : Word) (w : Width) (value : BitVec 64) (s : State) :
    Host.Outcome State Fault Refusal :=
  match targetOf s.params addr w with
  | .error =>
    .next (strayAccess (touchesAnyRegion s.regs ⟨addr.toNat, w.bytes⟩) ⟨addr.toNat, w.bytes⟩ s)
  | .reserved => .next (respond .done s)
  | .reg r => hostWriteReg r (value.setWidth 32) (respond .done s)
  | .data => hostWriteData ⟨addr.toNat, w.bytes⟩ value s

/-- One event from outside the engine. -/
def hostEvent (e : HostEvent) (s : State) : Host.Outcome State Fault Refusal :=
  match e with
  | .read addr w => hostRead addr w s
  | .write addr w value => hostWrite addr w value s
  | .clean addr size => .next (respond .done (hostClean ⟨addr, size⟩ s))
  | .invalidate addr size => .next (respond .done (hostInvalidate ⟨addr, size⟩ s))
  | .hardReset => .next (resetBlock (respond .done s))

/-- The next event of the total order (60_exceptions R405). With no event left, or a host event that
waits for BUSY = 0, a running command's end is next (R412, R413); an idle engine waits (R414). -/
def nextEvent (s : State) : Host.Outcome State Fault Refusal :=
  match s.pending, s.running with
  | [], none => .next s
  | [], some r => endCommand r s
  | .host e :: rest, none => hostEvent e { s with pending := rest }
  | .host _ :: _, some r => endCommand r s
  | .during e :: rest, _ => hostEvent e { s with pending := rest }
  | .turn _ :: rest, none => .next { s with pending := rest }
  | .turn ask :: rest, some r => engineTurn ask r { s with pending := rest }

/-! ## Placing a command (Step.lean's `State.withFetchWord`) -/

/-- The bus address of a register. -/
def regBusAddr (p : Params) (r : Reg) : Word :=
  p.engineBase + BitVec.ofNat 32 (regOffset r)

/-- The CTRL word that starts a command and keeps the enables. -/
def startWord (c : Ctrl) : Word :=
  ctrlWord c ||| 1#32

/-- The engine idle, a command word in CMD and the host's START write next (30_encoding R151): the next
step starts that command. -/
def placeCommand (w : Word) (s : State) : State :=
  { s with
    regs := { s.regs with cmd := w }
    status := { s.status with busy := false }
    running := none
    pending :=
      .host (.write (regBusAddr s.params .ctrl) .w32 ((startWord s.ctrl).setWidth 64)) :: s.pending }

end Sys2Proof.Machine
end

