-- ==== Sys2Proof/Machine/Step.lean ====
section
/-! DEFINITION. One step of the machine is one event of the total order (60_exceptions R405). -/

namespace Sys2Proof.Machine

/-- One step: the next event (60_exceptions R405), a host access, an internal step of the running command
or its end. -/
def step (s : State) : Host.Outcome State Fault Refusal := nextEvent s

/-- `s` with a command word where the next step takes its command from: in CMD, with the host's
`CTRL.START` write as the next event (30_encoding R151, 60_exceptions R410). The table's bit 0 is bit 0
of CMD. notes/assumptions/6.md. -/
def State.withFetchWord (s : State) (nbits w : Nat) : State :=
  placeCommand (BitVec.ofNat 32 (w % 2 ^ nbits)) s

end Sys2Proof.Machine
end

