-- ==== Sys2Proof/Machine/Assembler.lean ====
section
/-! DEFINITION. The assembler syntax of command words (30_encoding R160), the host statements (R161) and
the pseudo-instructions (R162), as the host events they stand for. -/

namespace Sys2Proof.Machine

/-- A letter in lower case: mnemonics are case-insensitive (30_encoding R160). -/
def lowerChar (c : Char) : Char :=
  if 'A' ≤ c ∧ c ≤ 'Z' then Char.ofNat (c.toNat + 32) else c

/-- The words of a line, lower case; words are separated by one or more spaces. `word` holds the letters
of the word being read, last first. DESIGN CHOICE (notes/assumptions/27.md): the modifiers are read in either
case too, which 30_encoding R160 says of mnemonics only; spaces before the first word and after the last are
dropped, and only the space character separates words, where R160 says no more than that a modifier follows
after one or more spaces. -/
def tokensFrom : List Char → List Char → List (List Char)
  | word, [] => if word.isEmpty then [] else [word.reverse]
  | word, c :: rest =>
    if c = ' ' then
      if word.isEmpty then tokensFrom [] rest else word.reverse :: tokensFrom [] rest
    else tokensFrom (lowerChar c :: word) rest

/-- The command syntaxes of 30_encoding R160 and the command pseudo-instructions of R162. -/
def commandSyntax : List (List String × Instr) :=
  [ (["conv.s8"], .convS8 false), (["conv.s8", "bias"], .convS8 true),
    (["conv.s16"], .convS16 false), (["conv.s16", "bias"], .convS16 true),
    (["dot.s8"], .dotS8 false), (["dot.s8", "clr"], .dotS8 true),
    (["dot.s16"], .dotS16 false), (["dot.s16", "clr"], .dotS16 true) ] ++
  [ (["rq.s8"], .rqS8), (["rq.s16"], .rqS16), (["memcpy"], .memcpy),
    (["reduce.s8"], .dotS8 true), (["reduce.s16"], .dotS16 true),
    (["conv.s8", "nobias"], .convS8 false), (["conv.s16", "nobias"], .convS16 false) ]

/-- The command a line of assembler names (30_encoding R160, R162). -/
def assembleCommand (line : String) : Option Instr :=
  (commandSyntax.find? fun row => row.1.map String.toList == tokensFrom [] line.toList).map (·.2)

/-- Host statements (30_encoding R161) and host pseudo-instructions (R162). -/
inductive Stmt where
  /-- `wr NAME, value`. -/
  | wr (r : Reg) (value : Word)
  /-- `rd NAME`. -/
  | rd (r : Reg)
  /-- `go CMDSYNTAX`: write the word, then START with the interrupt enables 0. -/
  | go (i : Instr)
  /-- `go.irq CMDSYNTAX`: write the word, then START with DONE_IE and ERR_IE. -/
  | goIrq (i : Instr)
  /-- `wait`: read STATUS until BUSY reads 0. -/
  | wait
  /-- `ack`: clear DONE, ERR and IGN. -/
  | ack
  /-- `srst`: soft reset. -/
  | srst
  deriving DecidableEq, Repr

/-- A 32-bit host store to a register (30_encoding R161). -/
def storeReg (p : Params) (r : Reg) (w : Word) : HostEvent :=
  .write (regBusAddr p r) .w32 (w.setWidth 64)

/-- A 32-bit host load of a register (30_encoding R161). -/
def loadReg (p : Params) (r : Reg) : HostEvent :=
  .read (regBusAddr p r) .w32

/-- The host accesses a statement stands for. Of `wait` it is the last read, the one that finds BUSY = 0:
the earlier ones change no state (10_state R53). -/
def stmtEvents (p : Params) : Stmt → List HostEvent
  | .wr r w => [storeReg p r w]
  | .rd r => [loadReg p r]
  | .go i => [storeReg p .cmd (encode i), storeReg p .ctrl 0x00000001#32]
  | .goIrq i => [storeReg p .cmd (encode i), storeReg p .ctrl 0x00000007#32]
  | .wait => [loadReg p .status]
  | .ack => [storeReg p .status 0x0000000E#32]
  | .srst => [storeReg p .ctrl 0x80000000#32]

/-- A host program that waits for BUSY = 0 before each access, as the programs of 95 section 9 do: its
events in order. -/
def programInputs (p : Params) (prog : List Stmt) : List Input :=
  (prog.flatMap (stmtEvents p)).map .host

/-- The machine with a host program to come and memory as its `mem` lines say (30_encoding R161). -/
def State.withProgram (s : State) (mem : List Host.Cell) (prog : List Stmt) : State :=
  { s with mem := s.mem.writeCells mem, pending := s.pending ++ programInputs s.params prog }

end Sys2Proof.Machine
end

