-- ==== Sys2Proof/Safety.lean ====
section
/-! DEFINITION. What a good state and a safe run are, in the terms the statements use. -/

namespace Sys2Proof.Machine

/-- The data space in canonical form, with no address beyond its 2^32 bytes, listed or waiting in a host
cache (10_state R58). -/
def State.memoryGood (s : State) : Bool :=
  s.mem.wf && (s.mem.all fun c => decide (c.1 < 2 ^ 32)) && s.unclean.all fun a => decide (a < 2 ^ 32)

/-- The STATUS invariant: BUSY exactly while a command runs, at most one of BUSY, DONE, ERR (10_state
R37), and ERR_CODE is NONE exactly while ERR = 0 (60_exceptions R401). -/
def State.statusGood (s : State) : Bool :=
  s.status.busy == s.running.isSome && !(s.status.busy && s.status.done) &&
    !(s.status.busy && s.status.err) && !(s.status.done && s.status.err) &&
    (s.status.err == (s.status.errCode != .none))

/-- ERR_ADDR is 0 unless the code is ADDR_RANGE or BUS_ERROR (10_state R38, 60_exceptions R403). -/
def State.errAddrGood (s : State) : Bool :=
  s.status.errCode == .addrRange || s.status.errCode == .busError || s.regs.errAddr == 0#32

/-- A running command is the one CMD holds, has passed its checks, is not UNDEFINED at START, and has
issued writes only inside its write region (60_exceptions R410, 10_state R51, 40_conv R218). -/
def State.runningGood (s : State) : Bool :=
  match s.running with
  | none => true
  | some r =>
    encode r.cmd == s.regs.cmd && (startCheck r.cmd s).isNone && (startUndefined r.cmd s).isNone &&
      r.writes.all fun c => (writeRegions r.cmd s.regs).any (·.covers c.1)

/-- The invariant of the machine. -/
def State.good (s : State) : Bool :=
  s.memoryGood && s.statusGood && s.errAddrGood && s.runningGood && s.params.wf

/-- A step is safe when the machine goes on. -/
def State.safe (s : State) : Prop := ∃ t, step s = .next t

/-- A run of n steps is safe: no step stops. -/
def State.safeFor (s : State) (n : Nat) : Prop := ∃ t, Host.Core.run Sys2Proof.core n s = .next t

end Sys2Proof.Machine
end

