-- ==== Sys2Proof/Certificates/Slice0/Obligations.lean ====
section
/-! DEFINITION. The statements for the provers (OBLIGATIONS.json). The definitions of the namespace
`Claim` are the words they are written in; each follows the rule it names and is written from the rule,
not from the model's own function, wherever the two could differ. -/

namespace Sys2Proof.Machine.Claim

/-! ## Words of the statements -/

/-- The event `e` is the one the next step takes, and `rest` are the events after it: a host event that
waited for the engine to be idle, or one that does not wait. -/
abbrev Delivered (e : HostEvent) (s : State) (rest : List Input) : Prop :=
  (s.pending = .host e :: rest ∧ s.running = none) ∨ s.pending = .during e :: rest

/-- Every region of a command is inside the data space (20_memory R108). -/
abbrev InSpace (i : Instr) (s : State) : Prop :=
  ∀ r ∈ readRegions i s.regs ++ writeRegions i s.regs, r.base + r.size ≤ 2 ^ 32

/-- Every region of a command is ordinary memory (20_memory R106): it meets neither the register block nor
a device of the platform. -/
abbrev Ordinary (i : Instr) (s : State) : Prop :=
  ∀ r ∈ readRegions i s.regs ++ writeRegions i s.regs,
    r.overlaps ⟨s.params.engineBase.toNat, 0x100⟩ = false ∧
      ∀ d ∈ s.params.busMap, d.kind = .device → r.overlaps ⟨d.base, d.size⟩ = false

/-- The platform answers every access inside a command's regions with data (60_exceptions R412, 70_reset
R530). -/
abbrev Answers (i : Instr) (s : State) : Prop :=
  (∀ r ∈ readRegions i s.regs, ∀ d ∈ s.params.busMap,
    (d.kind = .errorOnRead ∨ d.kind = .silent) → r.overlaps ⟨d.base, d.size⟩ = false) ∧
  ∀ r ∈ writeRegions i s.regs, ∀ d ∈ s.params.busMap,
    (d.kind = .errorOnWrite ∨ d.kind = .silent) → r.overlaps ⟨d.base, d.size⟩ = false

/-- lo_type ≤ ACT_MIN ≤ ACT_MAX ≤ hi_type (10_state R44). -/
abbrev ClampLegal (lo hi : Int) (g : Regs) : Prop :=
  lo ≤ g.actMin.toInt ∧ g.actMin.toInt ≤ g.actMax.toInt ∧ g.actMax.toInt ≤ hi

/-- No stride or dilation is 0 (10_state R42). -/
abbrev GeometryLegal (g : Regs) : Prop :=
  g.strideH ≠ 0#16 ∧ g.strideW ≠ 0#16 ∧ g.dilH ≠ 0#16 ∧ g.dilW ≠ 0#16

/-- The shapes agree (40_conv R202 checks 3 to 5). -/
abbrev ShapesAgree (g : Regs) : Prop :=
  g.inC = g.fltI ∧ g.fltO = g.outC ∧ g.outN = g.inN

/-- The OUT region meets no read region (20_memory R124). -/
abbrev NotAliased (i : Instr) (s : State) : Prop :=
  ∀ w ∈ writeRegions i s.regs, ∀ r ∈ readRegions i s.regs, w.overlaps r = false

/-- An address is in the write region of a command. -/
abbrev Writes (i : Instr) (s : State) (a : Nat) : Prop :=
  ∃ w ∈ writeRegions i s.regs, w.base ≤ a ∧ a < w.base + w.size

/-- STATUS after a completion (60_exceptions R413). -/
def doneStatus (s : State) : Status := { s.status with busy := false, done := true }

/-! ### The convolution, from 40_conv R204 to R212, in coordinates and with exact sums -/

/-- `in_y` of R204 and R206. -/
def inY (g : Regs) (oy ky : Nat) : Int :=
  (oy * g.strideH.toNat : Int) - g.padH.toNat + g.dilH.toNat * ky

/-- `in_x` of R204 and R206. -/
def inX (g : Regs) (ox kx : Nat) : Int :=
  (ox * g.strideW.toNat : Int) - g.padW.toNat + g.dilW.toNat * kx

/-- A tap is in bounds (R206). -/
abbrev InBounds (g : Regs) (oy ox ky kx : Nat) : Prop :=
  0 ≤ inY g oy ky ∧ inY g oy ky < g.inH.toNat ∧ 0 ≤ inX g ox kx ∧ inX g ox kx < g.inW.toNat

/-- The input element an in-bounds tap reads in channel `ic` (R207). -/
def inputOf (v : Variant) (s : State) (b oy ox ky kx ic : Nat) : Int :=
  let g := s.regs
  loadS s (g.inAddr.toNat + v.es *
    (((b * g.inH.toNat + (inY g oy ky).toNat) * g.inW.toNat + (inX g ox kx).toNat) * g.inC.toNat + ic))
    v.es

/-- What a tap adds: the channel reduction of R207 when it is in bounds, 0 when it is padded (R206). -/
def tapTerm (v : Variant) (s : State) (b oy ox oc ky kx : Nat) : Int :=
  let g := s.regs
  if InBounds g oy ox ky kx then
    ∑ ic ∈ Finset.range g.inC.toNat,
      (inputOf v s b oy ox ky kx ic + v.ioff g) *
      loadS s (g.fltAddr.toNat +
        (((oc * g.fltKH.toNat + ky) * g.fltKW.toNat + kx) * g.inC.toNat + ic)) 1
  else 0

/-- The exact sum of all taps of an output element. -/
def convSum (v : Variant) (s : State) (b oy ox oc : Nat) : Int :=
  ∑ ky ∈ Finset.range s.regs.fltKH.toNat, ∑ kx ∈ Finset.range s.regs.fltKW.toNat,
    tapTerm v s b oy ox oc ky kx

/-- The bias of an output channel, 0 when the bias is absent (R208). -/
def biasTerm (v : Variant) (bias : Bool) (s : State) (oc : Nat) : Int :=
  if bias then loadS s (s.regs.biasAddr.toNat + v.bs * oc) v.bs else 0

/-- `signed_Wacc(wrap_Wacc(x))` (00_scope R11). -/
def wrapSigned (w : Nat) (x : Int) : Int :=
  signedOf w (x % 2 ^ w).toNat

/-- The value stored for an output element (R209 to R211, with RQ of 42_requant R281). -/
def convOutput (v : Variant) (bias : Bool) (s : State) (b oy ox oc : Nat) : Int :=
  clamp
    (rq (wrapSigned v.wacc (convSum v s b oy ox oc + biasTerm v bias s oc))
        (loadS s (s.regs.multAddr.toNat + 4 * oc) 4) (loadS s (s.regs.shiftAddr.toNat + 4 * oc) 4) +
      v.ooff s.regs)
    s.regs.actMin.toInt s.regs.actMax.toInt

/-- The address an output element is stored to (R212). -/
def convAddress (v : Variant) (g : Regs) (b oy ox oc : Nat) : Nat :=
  g.outAddr.toNat + v.es * (((b * g.outH.toNat + oy) * g.outW.toNat + ox) * g.outC.toNat + oc)

/-- A command word `i` of the convolution completes: the next state differs from the accepted START only
in memory, in STATUS, and (with COHERENT = false) in which bytes the host has yet to invalidate; every
output element is stored little-endian at its address, and no other byte changes. -/
def ConvCompletes (v : Variant) (bias : Bool) (i : Instr) (s : State) : Prop :=
  ∃ mem stale,
    exec i s = .next { s with mem := mem, stale := stale, status := doneStatus s, running := none } ∧
    (s.params.coherent = true → stale = s.stale) ∧
    (∀ b < s.regs.inN.toNat, ∀ oy < s.regs.outH.toNat, ∀ ox < s.regs.outW.toNat,
      ∀ oc < s.regs.outC.toNat, ∀ k < v.es,
        Memory.read mem (convAddress v s.regs b oy ox oc + k) =
          BitVec.ofInt 8 (convOutput v bias s b oy ox oc / 2 ^ (8 * k))) ∧
    ∀ a, ¬ Writes i s a → Memory.read mem a = s.mem.read a

/-- The sum `Σ (a_i + off) × w_i` of 41_dot R252 over all of DOT_LEN. -/
def dotSumExact (v : Variant) (s : State) : Int :=
  ∑ k ∈ Finset.range s.regs.dotLen.toNat,
    (loadS s (s.regs.dotA.toNat + v.es * k) v.es + v.ioff s.regs) *
      loadS s (s.regs.dotB.toNat + k) 1

/-- The registers a command may write besides STATUS and ERR_ADDR (the rows "w" of 10_state R54). -/
def resultOf : Instr → List Reg
  | .convS8 _ => []
  | .convS16 _ => []
  | .dotS8 _ => [.accLo, .accHi, .resultLo, .resultHi]
  | .dotS16 _ => [.accLo, .accHi, .resultLo, .resultHi]
  | .rqS8 => [.resultLo, .resultHi]
  | .rqS16 => [.resultLo, .resultHi]
  | .memcpy => [.resultLo, .resultHi]

/-- The registers both convolutions read (10_state R54), BIAS_ADDR only with BIAS_EN. -/
def convReads (bias : Bool) : List Reg :=
  [.cmd, .inAddr, .fltAddr, .outAddr, .multAddr, .shiftAddr, .actMin, .actMax] ++
  [.inN, .inH, .inW, .inC, .fltO, .fltKH, .fltKW, .fltI, .outN, .outH, .outW, .outC] ++
  [.strideH, .strideW, .dilH, .dilW, .padH, .padW] ++ (if bias then [.biasAddr] else [])

/-- The registers a command reads (the rows "r" of 10_state R54). -/
def readOf : Instr → List Reg
  | .convS8 bias => convReads bias ++ [.inputOffset, .outputOffset]
  | .convS16 bias => convReads bias
  | .dotS8 clr => [.cmd, .inputOffset, .dotA, .dotB, .dotLen] ++ (if clr then [] else [.accLo])
  | .dotS16 clr => [.cmd, .dotA, .dotB, .dotLen] ++ (if clr then [] else [.accLo, .accHi])
  | .rqS8 => [.cmd, .outputOffset, .actMin, .actMax, .accLo, .reqMult, .reqShift]
  | .rqS16 => [.cmd, .actMin, .actMax, .accLo, .accHi, .reqMult, .reqShift]
  | .memcpy => [.cmd, .cpySrc, .cpyDst, .cpyLen]

/-- From `s` to `t` a command changes no register but STATUS, ERR_ADDR and those its column marks "w"
(10_state R54): IGN, the enables, the parameters, the host's dirty bytes and the slave port's answer stay. -/
structure CommandFrame (i : Instr) (s t : State) : Prop where
  regs : ∀ r, r ≠ .status → r ≠ .errAddr → r ∉ resultOf i → readReg r t = readReg r s
  ign : t.status.ign = s.status.ign
  ctrl : t.ctrl = s.ctrl
  params : t.params = s.params
  unclean : t.unclean = s.unclean
  response : t.response = s.response

/-- Another value in one register. -/
def poke (r : Reg) (w : Word) (s : State) : State :=
  { s with regs := writeReg r w s.regs }

/-- Apply a function to the next state of an outcome. -/
def mapNext (f : State → State) : Host.Outcome State Fault Refusal → Host.Outcome State Fault Refusal
  | .next s => .next (f s)
  | .fault r => .fault r
  | .refused r => .refused r

/-- The reserved offsets of 10_state R49. -/
def reservedOffsets : List Nat :=
  [0x038, 0x03C, 0x088, 0x08C, 0x0BC] ++ (List.range 13).map fun k => 0x0CC + 4 * k

/-- The registers whose bits [31:16] are RAZ/WI (10_state R41, R42). -/
def halfRegs : List Reg :=
  [.inN, .inH, .inW, .inC, .fltO, .fltKH, .fltKW, .fltI, .outN, .outH, .outW, .outC] ++
  [.strideH, .strideW, .dilH, .dilW, .padH, .padW]

/-- The registers of access RW with 32 bits (10_state R32). -/
def wordRegs : List Reg :=
  [.cmd, .inAddr, .fltAddr, .biasAddr, .outAddr, .multAddr, .shiftAddr, .inputOffset, .outputOffset] ++
  [.actMin, .actMax, .accLo, .accHi, .reqMult, .reqShift, .dotA, .dotB, .dotLen] ++
  [.cpySrc, .cpyDst, .cpyLen]

/-- The registers of access RO (10_state R32). -/
def readOnlyRegs : List Reg := [.id, .caps, .errAddr, .resultLo, .resultHi]

/-- A host store that writes a register. -/
def writeEvent (s : State) (r : Reg) (w : Word) : HostEvent :=
  .write (s.params.engineBase + BitVec.ofNat 32 (regOffset r)) .w32 (w.setWidth 64)

/-- A host load that reads a register. -/
def readEvent (s : State) (r : Reg) : HostEvent :=
  .read (s.params.engineBase + BitVec.ofNat 32 (regOffset r)) .w32

/-- `s` after the host event at the head of `pending` has been taken and answered. -/
def after (s : State) (rest : List Input) (a : Response) : State :=
  { s with pending := rest, response := a }

/-- The state in which a START is accepted: the enables of the CTRL write stored, DONE, ERR, ERR_CODE and
ERR_ADDR cleared, IGN kept (60_exceptions R410), the model's own draw counter advanced (log 7). -/
def accepted (s : State) (w : Word) : State :=
  { s with
    ctrl := ⟨w.getLsbD 1, w.getLsbD 2⟩
    status := { s.status with done := false, err := false, errCode := .none }
    regs := { s.regs with errAddr := 0#32 }
    draws := s.draws + 1 }

/-- The state of a command that has begun and shows BUSY = 1 (60_exceptions R410): nothing else has changed,
its loops are at their first iteration. -/
def begun (i : Instr) (s : State) : State :=
  { s with status := { s.status with busy := true }, running := some (Running.start i) }

/-- The next event is not one the host brings while a command runs: it is an internal step of a running
command or its end event. -/
abbrev EngineEvent (s : State) : Prop := ∀ e rest, s.pending ≠ .during e :: rest

/-- The state a start-time error leaves: the one before the START write with the enables of the CTRL write,
ERR, ERR_CODE and ERR_ADDR (60_exceptions R410, R411), and the model's own draw counter advanced (log 7). -/
def startError (s : State) (rest : List Input) (w : Word) (c : ErrCode) (a : Word) : State :=
  { after s rest .done with
    ctrl := ⟨w.getLsbD 1, w.getLsbD 2⟩
    status := { s.status with busy := false, done := false, err := true, errCode := c }
    regs := { s.regs with errAddr := a }
    draws := s.draws + 1 }

/-- A host event that writes CTRL with a word of which `p` holds. -/
abbrev WritesCtrl (s : State) (e : HostEvent) (p : Word → Prop) : Prop :=
  ∃ addr value, e = .write addr .w32 value ∧ targetOf s.params addr .w32 = .reg .ctrl ∧
    p (value.setWidth 32)

/-- A hard reset, or a CTRL write with SRST = 1 (70_reset R500, R503). -/
abbrev IsReset (s : State) (e : HostEvent) : Prop :=
  e = .hardReset ∨ WritesCtrl s e fun w => w.getLsbD 31 = true

/-- The bytes of a host access meet no range of the platform's map of one of some kinds. -/
abbrev HostClear (kinds : List RangeKind) (s : State) (addr : Word) (width : Width) : Prop :=
  ∀ d ∈ s.params.busMap, d.kind ∈ kinds →
    Region.overlaps ⟨addr.toNat, width.bytes⟩ ⟨d.base, d.size⟩ = false

/-- A running command waits for an access that never ends: it has stalled, or what is left of it has an
access that never ends and none that errs. -/
abbrev Silent (r : Running) (s : State) : Prop :=
  r.stalled = true ∨
    (workErrAddrs s.params (workLeft r s) = [] ∧ workHangs s.params (workLeft r s) = true)

/-- The four conditions of 30_encoding R156. -/
abbrev IllegalWord (w : Word) : Prop :=
  (w.extractLsb' 0 8 = 0x00#8 ∨ 0x08 ≤ (w.extractLsb' 0 8).toNat) ∨ w.extractLsb' 10 22 ≠ 0#22 ∨
    (w.getLsbD 8 = true ∧ w.extractLsb' 0 8 ≠ 0x01#8 ∧ w.extractLsb' 0 8 ≠ 0x02#8) ∨
    (w.getLsbD 9 = true ∧ w.extractLsb' 0 8 ≠ 0x03#8 ∧ w.extractLsb' 0 8 ≠ 0x04#8)

/-- The `len` bits of a word from bit `lo` on are zero. -/
abbrev fieldZero (w : Word) (lo len : Nat) : Prop := w.extractLsb' lo len = BitVec.ofNat len 0

end Sys2Proof.Machine.Claim

open Sys2Proof Sys2Proof.Machine Sys2Proof.Machine.Claim

/-! ## Encoding -/

/-- 30_encoding R150, R153, R158: decoding the word of a command gives the command back. -/
def Obligations.DecodeOfEncodeIsTheCommand : Prop :=
  ∀ i : Instr, decode (encode i) = .ok i

/-- 30_encoding R153, R158: a word decodes to a command exactly when it is that command's word, over all
2^32 words: no bit of the encoding is dropped and no word is read as a neighbour's. -/
def Obligations.DecodeAgreesWithEncodeOnAllWords : Prop :=
  ∀ (w : Word) (i : Instr), decode w = .ok i ↔ w = encode i

/-- 30_encoding R156: the decoder refuses exactly the words for which one of the four conditions of R156
holds. -/
def Obligations.DecodeRefusesExactlyTheIllegalWords : Prop :=
  ∀ w : Word, (∃ e, decode w = .error e) ↔ IllegalWord w

/-- 30_encoding R153: the match/mask list. A word decodes to a command exactly when it selects the row of
that command and its free bit is the command's; exactly eleven words are legal; no two rows match the
same word. -/
def Obligations.MatchMaskListIsTheDecoder : Prop :=
  (∀ (w : Word) (i : Instr), decode w = .ok i ↔
    (∃ row ∈ encodingTable, row.selects w = true ∧ row.mnemonic = i.mnemonic) ∧
      w.getLsbD 8 = i.biasEn ∧ w.getLsbD 9 = i.accClr) ∧
  (∀ w : Word, (∃ i, decode w = .ok i) ↔
    w ∈ [0x001#32, 0x101#32, 0x002#32, 0x102#32, 0x003#32, 0x203#32, 0x004#32, 0x204#32, 0x005#32,
      0x006#32, 0x007#32]) ∧
  ∀ w : Word, ∀ a ∈ encodingTable, ∀ b ∈ encodingTable,
    a.selects w = true → b.selects w = true → a = b

/-- 30_encoding R160 and the vectors of 95 section 2: words written out from the spec decode to the
commands they stand for, and the illegal ones to none. -/
def Obligations.SpecWordsDecode : Prop :=
  decode 0x00000001#32 = .ok (.convS8 false) ∧ decode 0x00000101#32 = .ok (.convS8 true) ∧
  decode 0x00000102#32 = .ok (.convS16 true) ∧ decode 0x00000003#32 = .ok (.dotS8 false) ∧
  decode 0x00000203#32 = .ok (.dotS8 true) ∧ decode 0x00000204#32 = .ok (.dotS16 true) ∧
  decode 0x00000005#32 = .ok .rqS8 ∧ decode 0x00000006#32 = .ok .rqS16 ∧
  decode 0x00000007#32 = .ok .memcpy ∧ decode 0x00000000#32 = .error .opcode ∧
  decode 0x00000201#32 = .error .accClr ∧ decode 0x00000103#32 = .error .biasEn ∧
  decode 0x80000005#32 = .error .reservedBit

/-- 30_encoding R160, R162: the assembler syntaxes and the command pseudo-instructions name the words of the
table (that the modifier of the last row is read in either case is the model's choice, log 27). -/
def Obligations.AssemblerSyntaxNamesTheWords : Prop :=
  ∀ row ∈ [("conv.s8", 0x00000001#32), ("conv.s8 bias", 0x00000101#32), ("conv.s16", 0x00000002#32),
      ("conv.s16 bias", 0x00000102#32), ("dot.s8", 0x00000003#32), ("dot.s8 clr", 0x00000203#32),
      ("dot.s16", 0x00000004#32), ("dot.s16 clr", 0x00000204#32), ("rq.s8", 0x00000005#32)] ++
      [("rq.s16", 0x00000006#32), ("memcpy", 0x00000007#32), ("reduce.s8", 0x00000203#32),
      ("reduce.s16", 0x00000204#32), ("conv.s8 nobias", 0x00000001#32), ("conv.s16 nobias", 0x00000002#32),
      ("CONV.S16   Bias", 0x00000102#32)],
    (assembleCommand row.1).map encode = some row.2

/-! ## A step and the control registers -/

/-- 60_exceptions R410, 30_encoding R151: when the next event is the host's CTRL.START write, the engine is
idle and CMD holds the word of command `i`, a step is `exec i` at the state in which the START is accepted
(the enables stored, the flags cleared, the write answered, the event taken). -/
def Obligations.StepRunsTheDecodedCommand : Prop :=
  ∀ (s : State) (rest : List Input) (w : Word) (i : Instr),
    s.params.wf = true → Delivered (writeEvent s .ctrl w) s rest →
    s.status.busy = false → w.getLsbD 31 = false → w.getLsbD 0 = true → decode s.regs.cmd = .ok i →
    step s = exec i (accepted (after s rest .done) w)

/-- 30_encoding R156: a word is illegal when one of the four conditions holds, and "A START with an illegal
word in `CMD` is rejected": STATUS.ERR with ILLEGAL_CMD, ERR_ADDR 0, no other register changed (CTRL keeps
the enables just written), no memory access. -/
def Obligations.StartWithIllegalWordIsRejected : Prop :=
  ∀ (s : State) (rest : List Input) (w : Word),
    s.params.wf = true → Delivered (writeEvent s .ctrl w) s rest → s.running = none →
    s.status.busy = false → w.getLsbD 31 = false → w.getLsbD 0 = true → IllegalWord s.regs.cmd →
    step s = .next (startError s rest w .illegalCmd 0#32)

/-- 10_state R35: a CTRL write with START = 0 and SRST = 0, accepted while BUSY = 0, stores DONE_IE and
ERR_IE and does nothing else; CTRL then reads {0, 0, ERR_IE, DONE_IE, 0}. -/
def Obligations.CtrlWriteWithoutStartStoresTheEnables : Prop :=
  ∀ (s : State) (rest : List Input) (w : Word),
    s.params.wf = true → Delivered (writeEvent s .ctrl w) s rest →
    s.status.busy = false → w.getLsbD 31 = false → w.getLsbD 0 = false →
    ∃ t, step s = .next t ∧ t = { after s rest .done with ctrl := ⟨w.getLsbD 1, w.getLsbD 2⟩ } ∧
      readReg .ctrl t = w &&& 0x00000006#32

/-- 10_state R51: while BUSY = 1 a write to any register other than STATUS and other than a CTRL write with
SRST = 1 changes no bit of any register, START included, and sets IGN. -/
def Obligations.RegisterWriteWhileBusyIsDropped : Prop :=
  ∀ (s : State) (rest : List Input) (r : Reg) (w : Word),
    s.params.wf = true → Delivered (writeEvent s r w) s rest → s.status.busy = true →
    r ≠ .status → ¬ (r = .ctrl ∧ w.getLsbD 31 = true) →
    step s = .next { after s rest .done with status := { s.status with ign := true } }

/-- 10_state R37, R38, 60_exceptions R415: a write to STATUS, also while BUSY = 1, clears DONE, ERR and IGN
by ones, ERR_CODE and ERR_ADDR with ERR, and changes nothing else. -/
def Obligations.StatusWriteClearsByOnes : Prop :=
  ∀ (s : State) (rest : List Input) (w : Word),
    s.params.wf = true → Delivered (writeEvent s .status w) s rest →
    step s = .next { after s rest .done with
      status := { s.status with
        done := s.status.done && !w.getLsbD 1
        err := s.status.err && !w.getLsbD 2
        errCode := if w.getLsbD 2 then .none else s.status.errCode
        ign := s.status.ign && !w.getLsbD 3 }
      regs := { s.regs with errAddr := if w.getLsbD 2 then 0#32 else s.regs.errAddr } }

/-- 10_state R52, R53: a register read changes no register, no memory and no running command, and returns
the register's value; while BUSY = 1 a read of ACC, RESULT or ERR_ADDR returns some 32-bit value that the
statement does not name. -/
def Obligations.RegisterReadHasNoSideEffect : Prop :=
  ∀ (s : State) (rest : List Input) (r : Reg),
    s.params.wf = true → Delivered (readEvent s r) s rest →
    (¬ (s.status.busy = true ∧ r ∈ [Reg.accLo, .accHi, .resultLo, .resultHi, .errAddr]) →
      step s = .next (after s rest (.data ((readReg r s).setWidth 64)))) ∧
    ∃ (x : Word) (n : Nat),
      step s = .next { after s rest (.data (x.setWidth 64)) with draws := n }

/-- 10_state R49: reserved offsets and the reserved bits of defined registers read as 0 and ignore writes. That
a write to a reserved offset has no effect also while BUSY = 1, so that it does not set IGN, is the model's
reading of R49 against R51 (log 16). -/
def Obligations.ReservedOffsetsAndBitsReadZero : Prop :=
  (∀ (s : State) (rest : List Input) (off : Nat) (value : BitVec 64),
    s.params.wf = true → off ∈ reservedOffsets →
    (Delivered (.read (s.params.engineBase + BitVec.ofNat 32 off) .w32) s rest →
      step s = .next (after s rest (.data 0#64))) ∧
    (Delivered (.write (s.params.engineBase + BitVec.ofNat 32 off) .w32 value) s rest →
      step s = .next (after s rest .done))) ∧
  (∀ (s : State), (∀ r ∈ halfRegs, fieldZero (readReg r s) 16 16) ∧
    fieldZero (readReg .ctrl s) 0 1 ∧ fieldZero (readReg .ctrl s) 3 29 ∧
    fieldZero (readReg .status s) 4 4 ∧ fieldZero (readReg .status s) 16 16 ∧
    fieldZero (readReg .caps s) 24 8) ∧
  (∀ (g : Regs) (w : Word), ∀ r ∈ halfRegs, writeReg r w g = writeReg r (w &&& 0x0000FFFF#32) g) ∧
  ∀ (s : State) (w : Word), writeStatus w s = writeStatus (w &&& 0x0000000E#32) s ∧
    writeCtrl w s = writeCtrl (w &&& 0x80000007#32) s

/-- 10_state R50: an access that touches the register block and is not 32-bit, or not 4-byte aligned,
receives an error response and has no effect on any register. The rest is the model's choice (logs 15 and 21,
read from R50 and 20_memory R122): an access that begins below the block or runs beyond it counts as an access
to the block and changes no byte either, but is a race where it touches a region of the running command. -/
def Obligations.NarrowOrMisalignedAccessIsAnError : Prop :=
  ∀ (s : State) (rest : List Input) (addr : Word) (width : Width) (value : BitVec 64),
    s.params.wf = true → s.params.engineBase.toNat < addr.toNat + width.bytes →
    addr.toNat < s.params.engineBase.toNat + 0x100 →
    (width ≠ .w32 ∨ addr.toNat % 4 ≠ 0) →
    (Delivered (.read addr width) s rest ∨ Delivered (.write addr width value) s rest) →
    ∃ t, step s = .next t ∧ t = { after s rest .busError with running := t.running } ∧
      (t.running = s.running ∨
        ((addr.toNat < s.params.engineBase.toNat ∨
            s.params.engineBase.toNat + 0x100 < addr.toNat + width.bytes) ∧
          ∃ r, s.running = some r ∧ t.running = some { r with raced := true }))

/-- 10_state R32 (column access), R36, R40 to R48: with BUSY = 0 a write to an RW register stores the word
(its 16 low bits in a shape or geometry register) and no other register; a write to an RO register is
ignored. -/
def Obligations.RegisterWriteStoresThatRegister : Prop :=
  ∀ (s : State) (rest : List Input) (r : Reg) (w : Word),
    s.params.wf = true → Delivered (writeEvent s r w) s rest → s.status.busy = false →
    r ≠ .ctrl → r ≠ .status →
    ∃ t, step s = .next t ∧ t = { after s rest .done with regs := t.regs } ∧
      (r ∈ wordRegs → readReg r t = w) ∧ (r ∈ halfRegs → readReg r t = w &&& 0x0000FFFF#32) ∧
      (r ∈ readOnlyRegs → readReg r t = readReg r s) ∧ ∀ r', r' ≠ r → readReg r' t = readReg r' s

/-- 60_exceptions R420: `irq` is (DONE and DONE_IE) or (ERR and ERR_IE), of the words the host reads. -/
def Obligations.IrqIsTheLevelOfStatusAndEnables : Prop :=
  ∀ s : State, s.irq =
    (((readReg .status s).getLsbD 1 && (readReg .ctrl s).getLsbD 1) ||
      ((readReg .status s).getLsbD 2 && (readReg .ctrl s).getLsbD 2))

/-! ## Reset -/

/-- 70_reset R501: the reset value of every register and field, on every part; reserved offsets read 0, no
hidden state, `irq` deasserted; and `State.reset` is such a state (of which part is log 2). -/
def Obligations.ResetValuesAreAsStated : Prop :=
  (∀ p : Params,
    let s := State.resetWith p
    readReg .id s = 0xC2D00700#32 ∧ readReg .caps s = 0x00#8 ++ p.vlb ++ p.vl16 ++ p.vl8 ∧
    (∀ r ∈ [Reg.strideH, .strideW, .dilH, .dilW], readReg r s = 1#32) ∧
    (∀ r ∈ allRegs, r ∉ [Reg.id, .caps, .strideH, .strideW, .dilH, .dilW] → readReg r s = 0#32) ∧
    (p.wf = true → ∀ off ∈ reservedOffsets,
      hostRead (p.engineBase + BitVec.ofNat 32 off) .w32 s = .next { s with response := .data 0#64 }) ∧
    s.running = none ∧ s.irq = false) ∧
  ∃ p : Params, p.wf = true ∧ State.reset = State.resetWith p

/-- 70_reset R500, R502, R503: a hard reset, or a CTRL write with SRST = 1 whatever its other bits and
whether or not BUSY = 1, sets every register to its reset value, deasserts `irq` and stops a running
command. Memory outside the command's write region is unchanged, each byte inside holds its old value or a
value the command's rule gives it (a race, 20_memory R122, leaves the bytes inside UNDEFINED); with no
command running no byte changes. -/
def Obligations.ResetRestoresEveryRegister : Prop :=
  ∀ (s : State) (rest : List Input) (e : HostEvent) (w : Word),
    s.params.wf = true → s.mem.wf = true → s.runningGood = true →
    (e = .hardReset ∨ (e = writeEvent s .ctrl w ∧ w.getLsbD 31 = true)) → Delivered e s rest →
    ∃ t, step s = .next t ∧ (∀ r, readReg r t = readReg r (State.resetWith s.params)) ∧
      t.running = none ∧ t.irq = false ∧ t.params = s.params ∧ t.pending = rest ∧
      (s.running = none → t.mem = s.mem) ∧
      ∀ r, s.running = some r → ∀ a,
        (¬ Writes r.cmd s a → t.mem.read a = s.mem.read a) ∧
        (r.raced = false →
          t.mem.read a = s.mem.read a ∨ (a, t.mem.read a) ∈ workCells (workLeft r s))

/-! ## What each command computes -/

/-- 41_dot R257: DOT_S8 completes with ACC_LO = wrap_32(base + Σ), ACC_HI its sign extension, RESULT the same
pair, STATUS done; memory and every other register unchanged. -/
def Obligations.DotS8Result : Prop :=
  ∀ (clr : Bool) (s : State),
    InSpace (.dotS8 clr) s → Ordinary (.dotS8 clr) s → Answers (.dotS8 clr) s → interleaved s = false →
    let lo : Word := BitVec.ofInt 32 ((if clr then 0 else s.regs.accLo.toInt) + dotSumExact .s8 s)
    let hi : Word := if lo.msb then 0xFFFFFFFF#32 else 0x00000000#32
    exec (.dotS8 clr) s = .next { s with
      regs := { s.regs with accLo := lo, accHi := hi, resultLo := lo, resultHi := hi }
      status := doneStatus s
      running := none }

/-- 41_dot R258: DOT_S16 completes with ACC = wrap_64(base + Σ), RESULT the same, STATUS done; memory and
every other register unchanged. -/
def Obligations.DotS16Result : Prop :=
  ∀ (clr : Bool) (s : State),
    InSpace (.dotS16 clr) s → Ordinary (.dotS16 clr) s → Answers (.dotS16 clr) s →
    interleaved s = false →
    let a : BitVec 64 := BitVec.ofInt 64
      ((if clr then 0 else (s.regs.accHi ++ s.regs.accLo).toInt) + dotSumExact .s16 s)
    exec (.dotS16 clr) s = .next { s with
      regs := { s.regs with
        accLo := a.setWidth 32
        accHi := (a >>> 32).setWidth 32
        resultLo := a.setWidth 32
        resultHi := (a >>> 32).setWidth 32 }
      status := doneStatus s
      running := none }

/-- 42_requant R285: RQ_S8 completes with RESULT the sign-extended clamp(RQ(ACC_LO, M, s) + OUTPUT_OFFSET),
RQ as R281 writes it; ACC, memory and every other register unchanged. -/
def Obligations.RqS8Result : Prop :=
  ∀ s : State, ClampLegal (-128) 127 s.regs → interleaved s = false →
    let o := clamp (rq s.regs.accLo.toInt s.regs.reqMult.toInt s.regs.reqShift.toInt +
      s.regs.outputOffset.toInt) s.regs.actMin.toInt s.regs.actMax.toInt
    exec .rqS8 s = .next { s with
      regs := { s.regs with
        resultLo := BitVec.ofInt 32 o
        resultHi := if 0 ≤ o then 0x00000000#32 else 0xFFFFFFFF#32 }
      status := doneStatus s
      running := none }

/-- 42_requant R286: RQ_S16 completes with RESULT the sign-extended clamp(RQ(ACC, M, s)), no output offset;
ACC, memory and every other register unchanged. -/
def Obligations.RqS16Result : Prop :=
  ∀ s : State, ClampLegal (-32768) 32767 s.regs → interleaved s = false →
    let o := clamp (rq (s.regs.accHi ++ s.regs.accLo).toInt s.regs.reqMult.toInt s.regs.reqShift.toInt)
      s.regs.actMin.toInt s.regs.actMax.toInt
    exec .rqS16 s = .next { s with
      regs := { s.regs with
        resultLo := BitVec.ofInt 32 o
        resultHi := if 0 ≤ o then 0x00000000#32 else 0xFFFFFFFF#32 }
      status := doneStatus s
      running := none }

/-- 43_memcpy R311, R314: MEMCPY completes, DST holds exactly the source bytes, RESULT = {0, CPY_DST}; every
other byte and register unchanged. -/
def Obligations.MemcpyResult : Prop :=
  ∀ s : State,
    InSpace .memcpy s → Ordinary .memcpy s → Answers .memcpy s → NotAliased .memcpy s →
    interleaved s = false → s.mem.wf = true →
    ∃ mem stale,
      exec .memcpy s = .next { s with
        mem := mem
        stale := stale
        regs := { s.regs with resultLo := s.regs.cpyDst, resultHi := 0#32 }
        status := doneStatus s
        running := none } ∧
      (s.params.coherent = true → stale = s.stale) ∧
      (∀ j < s.regs.cpyLen.toNat, Memory.read mem (s.regs.cpyDst.toNat + j) =
        BitVec.ofNat 8 (memRead s (s.regs.cpySrc.toNat + j) 1)) ∧
      ∀ a, ¬ Writes .memcpy s a → Memory.read mem a = s.mem.read a

/-- 40_conv R213, R220: CONV_S8 completes and every output element is the clamped, requantized convolution
sum; RESULT, ACC and every other register unchanged, no byte outside OUT changed. -/
def Obligations.ConvS8Result : Prop :=
  ∀ (bias : Bool) (s : State),
    ClampLegal (-128) 127 s.regs → GeometryLegal s.regs → ShapesAgree s.regs →
    InSpace (.convS8 bias) s → NotAliased (.convS8 bias) s → Ordinary (.convS8 bias) s →
    s.regs.fltKH.toNat * s.regs.fltKW.toNat * s.regs.inC.toNat < 65536 →
    Answers (.convS8 bias) s → interleaved s = false → s.mem.wf = true →
    ConvCompletes .s8 bias (.convS8 bias) s

/-- 40_conv R213, R221: CONV_S16 completes and every output element is the clamped, requantized convolution
sum with a 64-bit accumulator and no offsets; no depth bound (R216). -/
def Obligations.ConvS16Result : Prop :=
  ∀ (bias : Bool) (s : State),
    ClampLegal (-32768) 32767 s.regs → GeometryLegal s.regs → ShapesAgree s.regs →
    InSpace (.convS16 bias) s → NotAliased (.convS16 bias) s → Ordinary (.convS16 bias) s →
    Answers (.convS16 bias) s → interleaved s = false → s.mem.wf = true →
    ConvCompletes .s16 bias (.convS16 bias) s

/-! ## Errors -/

/-- 60_exceptions R411: a start-time error is precise. The step of the START write gives the state before it,
plus ERR, ERR_CODE and ERR_ADDR (and the enables just written): no memory access, BUSY and DONE 0, no
other register. -/
def Obligations.StartErrorIsPrecise : Prop :=
  ∀ (s : State) (rest : List Input) (w : Word) (c : ErrCode) (a : Word),
    s.params.wf = true → Delivered (writeEvent s .ctrl w) s rest → s.running = none →
    s.status.busy = false → w.getLsbD 31 = false → w.getLsbD 0 = true →
    ((∃ e, decode s.regs.cmd = .error e) ∧ c = .illegalCmd ∧ a = 0#32 ∨
      ∃ i, decode s.regs.cmd = .ok i ∧ startCheck i s = some (c, a)) →
    step s = .next (startError s rest w c a)

/-- 40_conv R202, 60_exceptions R404: the checks of CONV_S8 and CONV_S16 in their order, the first failure
reported, with ADDR_RANGE recording the base of the first region that ends beyond 2^32, in the order IN,
FLT, BIAS if enabled, MULT, SHIFT, OUT. -/
def Obligations.ConvChecksInOrder : Prop :=
  ∀ (bias : Bool) (s : State),
    (∀ p ∈ [(Instr.convS8 bias, Variant.s8, (-128 : Int), (127 : Int)),
        (.convS16 bias, .s16, -32768, 32767)],
      let g := s.regs
      (¬ ClampLegal p.2.2.1 p.2.2.2 g → startCheck p.1 s = some (.clampRange, 0#32)) ∧
      (ClampLegal p.2.2.1 p.2.2.2 g → ¬ GeometryLegal g →
        startCheck p.1 s = some (.paramRange, 0#32)) ∧
      (ClampLegal p.2.2.1 p.2.2.2 g → GeometryLegal g →
        (g.inC ≠ g.fltI → startCheck p.1 s = some (.cinMismatch, 0#32)) ∧
        (g.inC = g.fltI → g.fltO ≠ g.outC → startCheck p.1 s = some (.coutMismatch, 0#32)) ∧
        (g.inC = g.fltI → g.fltO = g.outC → g.outN ≠ g.inN →
          startCheck p.1 s = some (.batchMismatch, 0#32)) ∧
        (ShapesAgree g →
          let regions : List (Nat × Nat) :=
            [(g.inAddr.toNat, p.2.1.es * g.inN.toNat * g.inH.toNat * g.inW.toNat * g.inC.toNat),
             (g.fltAddr.toNat, g.fltO.toNat * g.fltKH.toNat * g.fltKW.toNat * g.fltI.toNat)] ++
            (if bias then [(g.biasAddr.toNat, p.2.1.bs * g.fltO.toNat)] else []) ++
            [(g.multAddr.toNat, 4 * g.outC.toNat), (g.shiftAddr.toNat, 4 * g.outC.toNat),
             (g.outAddr.toNat, p.2.1.es * g.outN.toNat * g.outH.toNat * g.outW.toNat * g.outC.toNat)]
          ((∀ r ∈ regions, r.1 + r.2 ≤ 2 ^ 32) → startCheck p.1 s = none) ∧
          ∀ pre r post, regions = pre ++ r :: post → (∀ q ∈ pre, q.1 + q.2 ≤ 2 ^ 32) →
            2 ^ 32 < r.1 + r.2 → startCheck p.1 s = some (.addrRange, BitVec.ofNat 32 r.1))))

/-- 41_dot R259, 42_requant R287, 43_memcpy R316: the one start-time check of DOT, RQ and MEMCPY; RQ makes no
memory access. -/
def Obligations.DotRqCopyChecks : Prop :=
  ∀ s : State,
    (∀ p ∈ [(Instr.dotS8 true, (1 : Nat)), (.dotS8 false, 1), (.dotS16 true, 2), (.dotS16 false, 2)],
      (2 ^ 32 < s.regs.dotA.toNat + p.2 * s.regs.dotLen.toNat →
        startCheck p.1 s = some (.addrRange, s.regs.dotA)) ∧
      (s.regs.dotA.toNat + p.2 * s.regs.dotLen.toNat ≤ 2 ^ 32 →
        2 ^ 32 < s.regs.dotB.toNat + s.regs.dotLen.toNat →
        startCheck p.1 s = some (.addrRange, s.regs.dotB)) ∧
      (s.regs.dotA.toNat + p.2 * s.regs.dotLen.toNat ≤ 2 ^ 32 →
        s.regs.dotB.toNat + s.regs.dotLen.toNat ≤ 2 ^ 32 → startCheck p.1 s = none)) ∧
    (∀ p ∈ [(Instr.rqS8, (-128 : Int), (127 : Int)), (.rqS16, -32768, 32767)],
      (¬ ClampLegal p.2.1 p.2.2 s.regs → startCheck p.1 s = some (.clampRange, 0#32)) ∧
      (ClampLegal p.2.1 p.2.2 s.regs → startCheck p.1 s = none) ∧
      workLeft (Running.start p.1) s = []) ∧
    (2 ^ 32 < s.regs.cpySrc.toNat + s.regs.cpyLen.toNat →
      startCheck .memcpy s = some (.addrRange, s.regs.cpySrc)) ∧
    (s.regs.cpySrc.toNat + s.regs.cpyLen.toNat ≤ 2 ^ 32 →
      2 ^ 32 < s.regs.cpyDst.toNat + s.regs.cpyLen.toNat →
      startCheck .memcpy s = some (.addrRange, s.regs.cpyDst)) ∧
    (s.regs.cpySrc.toNat + s.regs.cpyLen.toNat ≤ 2 ^ 32 →
      s.regs.cpyDst.toNat + s.regs.cpyLen.toNat ≤ 2 ^ 32 → startCheck .memcpy s = none)

/-- 60_exceptions R412, R403: a command with an access that receives an error response (and none that never
ends) ends with BUS_ERROR: RESULT, ACC and every register but STATUS and ERR_ADDR unchanged, ERR_ADDR an
address inside one of the command's regions; every byte outside the write region unchanged, every byte
inside it old or the value the rule gives it. -/
def Obligations.BusErrorEndsTheCommand : Prop :=
  ∀ (i : Instr) (s : State),
    startCheck i s = none → startUndefined i s = none → interleaved s = false → s.mem.wf = true →
    workErrAddrs s.params (workLeft (Running.start i) s) ≠ [] →
    workHangs s.params (workLeft (Running.start i) s) = false →
    ∃ t, exec i s = .next t ∧
      t.status = { s.status with busy := false, err := true, errCode := .busError } ∧
      t.running = none ∧ t.regs = { s.regs with errAddr := t.regs.errAddr } ∧ t.ctrl = s.ctrl ∧
      (∃ a ∈ workErrAddrs s.params (workLeft (Running.start i) s),
        t.regs.errAddr = BitVec.ofNat 32 a ∧
          ∃ r ∈ readRegions i s.regs ++ writeRegions i s.regs, r.base ≤ a ∧ a < r.base + r.size) ∧
      (∀ a, ¬ Writes i s a → t.mem.read a = s.mem.read a) ∧
      ∀ a, t.mem.read a = s.mem.read a ∨
        t.mem.read a = (s.mem.writeCells (workCells (workLeft (Running.start i) s))).read a

/-- 93 U1, U2, U3, U5 (60_exceptions R406): the UNDEFINED cases fault at the accepted START, after the checks
pass. Which fault is named where several cases hold at once is the model's choice (log 11). -/
def Obligations.UndefinedCommandsFault : Prop :=
  ∀ (i : Instr) (s : State), startCheck i s = none →
    (∀ bias, i = .convS8 bias →
      65536 ≤ s.regs.fltKH.toNat * s.regs.fltKW.toNat * s.regs.inC.toNat →
      exec i s = .fault .accDepth) ∧
    (∀ bias, (i = .convS8 bias ∨ i = .convS16 bias) → ¬ NotAliased i s →
      exec i s = .fault .outAliased ∨ exec i s = .fault .accDepth) ∧
    (i = .memcpy → 0 < s.regs.cpyLen.toNat →
      s.regs.cpySrc.toNat < s.regs.cpyDst.toNat + s.regs.cpyLen.toNat →
      s.regs.cpyDst.toNat < s.regs.cpySrc.toNat + s.regs.cpyLen.toNat →
      exec i s = .fault .copyOverlap) ∧
    (¬ Ordinary i s → ∃ f, exec i s = .fault f)

/-- 60_exceptions R400, R406: a step faults only in the UNDEFINED cases of 93: at an event that is not a host
access, the end of a running command the host raced with; or at the host's CTRL.START write with BUSY = 0,
a command that is UNDEFINED. It refuses only a host load or store of the data space with a byte in a range
of kind `device` or `silent` (log 18, the model's choice). -/
def Obligations.StepStopsOnlyWhereTheSpecIsUndefined : Prop :=
  (∀ (s : State) (f : Fault), step s = .fault f →
    (f = .hostRace ∧ (∃ r, s.running = some r ∧ r.raced = true) ∧
      ∀ e rest, s.pending ≠ .during e :: rest) ∨
    ∃ e rest i, Delivered e s rest ∧
      WritesCtrl s e (fun w => w.getLsbD 31 = false ∧ w.getLsbD 0 = true) ∧ s.status.busy = false ∧
      decode s.regs.cmd = .ok i ∧ startCheck i s = none ∧ startUndefined i s = some f) ∧
  ∀ (s : State) (f : Refusal), step s = .refused f → f = .hostDeviceAccess ∧
    ∃ e rest addr width, Delivered e s rest ∧
      (e = .read addr width ∨ ∃ value, e = .write addr width value) ∧
      targetOf s.params addr width = .data ∧ ¬ HostClear [.device, .silent] s addr width

/-! ## Frames -/

/-- 10_state R54, R39, 40_conv R219: a command that gives a next state changes no register but STATUS,
ERR_ADDR and those its column marks "w"; it changes neither the enables nor the parameters, neither what
the host has cached nor the events to come. The same holds of every later step of a running command that no
host event takes: an internal step, a bus error in one, the end event. -/
def Obligations.CommandsChangeOnlyTheirRegisters : Prop :=
  (∀ (i : Instr) (s t : State), exec i s = .next t → CommandFrame i s t ∧ t.pending = s.pending) ∧
  ∀ (s t : State) (r : Running), s.running = some r → EngineEvent s → step s = .next t →
    CommandFrame r.cmd s t ∧
    (∀ ask rest, s.pending = .turn ask :: rest → t.pending = rest) ∧
    ((∀ ask rest, s.pending ≠ .turn ask :: rest) → t.pending = s.pending)

/-- 40_conv R218, 43_memcpy R314, 41_dot R257, 42_requant R285: a command that gives a next state changes no
byte outside its write region; DOT and RQ have none. The same holds of every later step of a running command
that no host event takes (an internal step, a bus error in one, the end event); inside the region each byte is
old or a value the command's rule gives it, and a completion stores them all (60_exceptions R412, R413). -/
def Obligations.CommandsStoreOnlyInTheirWriteRegion : Prop :=
  (∀ (i : Instr) (s t : State), exec i s = .next t →
    ∀ a, ¬ Writes i s a → t.mem.read a = s.mem.read a) ∧
  ∀ (s t : State) (r : Running), s.running = some r → s.runningGood = true → EngineEvent s →
    step s = .next t →
    (∀ a, ¬ Writes r.cmd s a → t.mem.read a = s.mem.read a) ∧
    (s.mem.wf = true → ∀ a,
      t.mem.read a = s.mem.read a ∨ (a, t.mem.read a) ∈ workCells (workLeft r s)) ∧
    (s.status.done = false → t.status.done = true →
      t.mem = s.mem.writeCells (workCells (workLeft r s)))

/-- 20_memory R107: a command that has passed its checks accesses no byte outside its regions. -/
def Obligations.CommandsAccessOnlyTheirRegions : Prop :=
  ∀ (i : Instr) (s : State), startCheck i s = none →
    ∀ u ∈ workLeft (Running.start i) s,
      (∀ x ∈ u.reads, ∃ r ∈ readRegions i s.regs,
        r.base ≤ x.addr ∧ x.addr + x.bytes ≤ r.base + r.size) ∧
      (∀ x ∈ u.writes, ∃ r ∈ writeRegions i s.regs,
        r.base ≤ x.addr ∧ x.addr + x.bytes ≤ r.base + r.size) ∧
      ∀ c ∈ u.cells, Writes i s c.1

/-! ## Vector lengths and progress -/

/-- 41_dot R255, 43_memcpy R312: a step grants between 1 and min(req, VLMAX), and every such length can be
granted. -/
def Obligations.GrantsAreExactlyTheLegalLengths : Prop :=
  ∀ req vlmax : Nat, 1 ≤ req → 1 ≤ vlmax →
    (∀ ask, 1 ≤ granted ask req vlmax ∧ granted ask req vlmax ≤ min req vlmax) ∧
    ∀ vl, 1 ≤ vl → vl ≤ min req vlmax → granted vl req vlmax = vl

/-- 41_dot R256, 43_memcpy R314, 40_conv R225: an internal step of a running command, whatever it is granted,
does not change how the command ends (registers, memory, status), from any position it is at. -/
def Obligations.InternalStepsNeverChangeTheOutcome : Prop :=
  ∀ (s t : State) (r r' : Running) (ask : Nat),
    s.running = some r → workHangs s.params (workLeft r s) = false →
    engineTurn ask r s = .next t → t.running = some r' →
    endCommand r' t = endCommand r s

/-- 60_exceptions R410: a command that passes its checks, and whose next event does not wait for its end (an
internal step or a host event while it runs), shows BUSY = 1, with nothing else changed and its loops at their
first iteration. 40_conv R225, 41_dot R256, 43_memcpy R314: run on step by step with any sequence of grants, and
then to its end, it ends exactly as the command run at once. (That a step stops between a START and its end
only where an event falls there is the model's reading, logs 4 and 5.) -/
def Obligations.EveryGrantSequenceGivesTheSameResult : Prop :=
  (∀ (i : Instr) (s : State) (x : Input) (rest : List Input),
    startCheck i s = none → startUndefined i s = none → s.pending = x :: rest → (∀ e, x ≠ .host e) →
    exec i s = .next (begun i s)) ∧
  ∀ (i : Instr) (s : State) (asks : List Nat),
    startCheck i s = none → startUndefined i s = none → Answers i s → s.pending = asks.map .turn →
    Host.Core.run Sys2Proof.core (asks.length + 1) (begun i s) = exec i { s with pending := [] }

/-- 41_dot R255: "The loop ends after at most n steps": after DOT_LEN steps, whatever was granted, a DOT has
processed all its elements. -/
def Obligations.ReductionLoopEndsAfterAtMostLenSteps : Prop :=
  ∀ (v : Variant) (i : Instr) (s : State) (asks : List Nat), s.regs.dotLen.toNat ≤ asks.length →
    (asks.foldl (fun r ask => dotTurn v ask r s) (Running.start i)).chan = s.regs.dotLen.toNat

/-- 70_reset R530, 60_exceptions R400, R413: when no event is left to wait for, a running command whose
accesses all end (and none of which has not ended) completes or fails in the next step. -/
def Obligations.RunningCommandEnds : Prop :=
  ∀ (s : State) (r : Running), s.running = some r → r.raced = false → r.stalled = false →
    s.pending = [] → workHangs s.params (workLeft r s) = false →
    ∃ t, step s = .next t ∧ t.status.busy = false ∧ t.running = none ∧
      (t.status.done = true ∨ (t.status.err = true ∧ t.status.errCode = .busError))

/-- 70_reset R530: a bus that never answers stalls the engine with BUSY = 1. Whatever the next event is, the
step is no fault and leaves BUSY = 1 and the same command waiting, unless the event is a reset; with no
event, or a host event that waits for the end, nothing changes but the record that the command has stalled;
a hard or soft reset ends it. That memory does not change meanwhile is the model's choice (log 10: it holds
the engine's writes until the end event), and so is the record (log 14). -/
def Obligations.SilentBusStallsUntilReset : Prop :=
  ∀ (s : State) (r : Running), s.running = some r → s.status.busy = true → Silent r s →
    (∀ f, step s ≠ .fault f) ∧
    (∀ t, step s = .next t →
      (t.status.busy = true ∧ ∃ r', t.running = some r' ∧ r'.cmd = r.cmd ∧ Silent r' t) ∨
      ∃ e rest, s.pending = .during e :: rest ∧ IsReset s e) ∧
    (∀ e rest, s.pending = [] ∨ s.pending = .host e :: rest →
      step s = .next { s with running := some { r with stalled := true } }) ∧
    ∀ e rest, s.pending = .during e :: rest → IsReset s e →
      ∃ t, step s = .next t ∧ t.status.busy = false ∧ t.running = none

/-- 43_memcpy R312, 60_exceptions R403, R412, 00_scope R13: the ERR_ADDR of a MEMCPY is that of an access the
engine has issued. When a source byte is recorded, no byte VLB or more below it erred, read or written;
when a destination byte is recorded, the source bytes up to it have all been read without error, and no
write VLB or more below it erred. Which accesses are outstanding together, and that no step starts before
the writes of the one before have ended, is the model's reading of these rules (log 12). -/
def Obligations.CopyErrorAddressIsOfAnIssuedAccess : Prop :=
  ∀ s : State,
    s.params.wf = true → startCheck .memcpy s = none → startUndefined .memcpy s = none →
    interleaved s = false → workErrAddrs s.params (workLeft (Running.start .memcpy) s) ≠ [] →
    workHangs s.params (workLeft (Running.start .memcpy) s) = false →
    let readErrs := fun k => answersAs s.params .errorOnRead (s.regs.cpySrc.toNat + k)
    let writeErrs := fun k => answersAs s.params .errorOnWrite (s.regs.cpyDst.toNat + k)
    ∃ t j, exec .memcpy s = .next t ∧ t.status.errCode = .busError ∧ j < s.regs.cpyLen.toNat ∧
      ((t.regs.errAddr = BitVec.ofNat 32 (s.regs.cpySrc.toNat + j) ∧ readErrs j = true ∧
          ∀ k, k + s.params.vlb.toNat ≤ j → readErrs k = false ∧ writeErrs k = false) ∨
        (t.regs.errAddr = BitVec.ofNat 32 (s.regs.cpyDst.toNat + j) ∧ writeErrs j = true ∧
          (∀ k ≤ j, readErrs k = false) ∧
          ∀ k, k + s.params.vlb.toNat ≤ j → writeErrs k = false))

/-! ## Arithmetic -/

/-- 42_requant R282: the properties of RQ: identity, halving, zero, large right shift, left shift. -/
def Obligations.RequantizationProperties : Prop :=
  (∀ x : Int, rq x (2 ^ 30) 1 = x) ∧ (∀ x : Int, rq x (2 ^ 30) 0 = (x + 1) / 2) ∧
  rq (-2) 0x60000000 0 = -1 ∧ rq 2 0x60000000 0 = 2 ∧
  (∀ m s : Int, rq 0 m s = 0) ∧ (∀ x s : Int, rq x 0 s = 0) ∧
  (∀ (x : BitVec 64) (m : Word) (s : Int), s ≤ -65 → rq x.toInt m.toInt s = 0) ∧
  ∀ (x m : Int) (k : Nat), rq x m (31 + k) = x * m * 2 ^ k

/-- 42_requant R283, R284: the datapath the model runs gives OUTSTAGE = clamp(RQ + ooff, lo, hi) for every
accumulator, multiplier, shift and offset and every clamp range inside int16. -/
def Obligations.DatapathMeetsOutstage : Prop :=
  ∀ (x : BitVec 64) (m s off : Word) (lo hi : Int), -32768 ≤ lo → lo ≤ hi → hi ≤ 32767 →
    outstage x.toInt m.toInt s.toInt off.toInt lo hi =
      clamp (rq x.toInt m.toInt s.toInt + off.toInt) lo hi

/-- 40_conv R214: the store never wraps: the value of an output element lies in [ACT_MIN, ACT_MAX], and the
stored bytes read back with signed_(8*es) are that value. -/
def Obligations.StoredOutputNeverWraps : Prop :=
  ∀ (v : Variant) (bias : Bool) (s t : State) (b oy ox oc : Nat),
    ClampLegal v.loType v.hiType s.regs → t.params.coherent = true →
    let o := convOutput v bias s b oy ox oc
    let a := convAddress v s.regs b oy ox oc
    (∀ k < v.es, t.mem.read (a + k) = BitVec.ofInt 8 (o / 2 ^ (8 * k))) →
    s.regs.actMin.toInt ≤ o ∧ o ≤ s.regs.actMax.toInt ∧ loadS t a v.es = o

/-- 40_conv R215: with (input + ioff) in [-255, 255] for every input the output element reads, and a depth
below 2^16, the product sum of CONV_S8 lies within ±2,139,062,400, so that its 32-bit accumulation never
wraps. -/
def Obligations.ConvS8SumFitsTheAccumulator : Prop :=
  ∀ (s : State) (b oy ox oc : Nat),
    s.regs.fltKH.toNat * s.regs.fltKW.toNat * s.regs.inC.toNat ≤ 65535 →
    (∀ ky < s.regs.fltKH.toNat, ∀ kx < s.regs.fltKW.toNat, InBounds s.regs oy ox ky kx →
      ∀ ic < s.regs.inC.toNat,
        -255 ≤ inputOf .s8 s b oy ox ky kx ic + s.regs.inputOffset.toInt ∧
          inputOf .s8 s b oy ox ky kx ic + s.regs.inputOffset.toInt ≤ 255) →
    -2139062400 ≤ convSum .s8 s b oy ox oc ∧ convSum .s8 s b oy ox oc ≤ 2139062400 ∧
      wrapSigned 32 (convSum .s8 s b oy ox oc) = convSum .s8 s b oy ox oc

/-- 40_conv R222: when no bias buffer is supplied, the output equals the bias-present computation with an
all-zero bias array. -/
def Obligations.BiasAbsentEqualsZeroBias : Prop :=
  ∀ (v : Variant) (s : State),
    let absent : Instr := match v with | .s8 => .convS8 false | .s16 => .convS16 false
    let present : Instr := match v with | .s8 => .convS8 true | .s16 => .convS16 true
    startCheck present s = none → startUndefined present s = none → Answers present s →
    interleaved s = false →
    (∀ oc < s.regs.outC.toNat, loadS s (s.regs.biasAddr.toNat + v.bs * oc) v.bs = 0) →
    exec absent s = exec present s

/-- 40_conv R224: a convolution with IN_N, OUT_H, OUT_W or OUT_C equal to 0 writes nothing and reads nothing,
and completes, whatever the platform answers. -/
def Obligations.EmptyConvolutionTouchesNothing : Prop :=
  ∀ (i : Instr) (bias : Bool) (s : State), (i = .convS8 bias ∨ i = .convS16 bias) →
    startCheck i s = none → startUndefined i s = none → interleaved s = false →
    (s.regs.inN = 0#16 ∨ s.regs.outH = 0#16 ∨ s.regs.outW = 0#16 ∨ s.regs.outC = 0#16) →
    exec i s = .next { s with status := doneStatus s, running := none }

/-- 10_state R54: "Registers a command does not read have no effect on it, whatever they hold": with another
value in a register that the command's column marks "-", the command does the same and leaves that value
(R43: the S16 commands ignore INPUT_OFFSET and OUTPUT_OFFSET). -/
def Obligations.CommandsIgnoreTheRegistersTheyDoNotRead : Prop :=
  ∀ (i : Instr) (s : State) (r : Reg) (w : Word), r ∉ readOf i → r ∉ resultOf i →
    exec i (poke r w s) = mapNext (poke r w) (exec i s)

/-- 00_scope R15, 20_memory R100, R102: an element stored at any address, aligned or not, and then loaded is
the value stored, and the byte at its lowest address holds bits [7:0]. -/
def Obligations.StoreThenLoadElement : Prop :=
  ∀ (s : State) (a n : Nat) (x : Int), n ∈ [1, 2, 4, 8] → s.mem.wf = true → s.params.coherent = true →
    -(2 ^ (8 * n - 1)) ≤ x → x < 2 ^ (8 * n - 1) →
    loadS (storeCells (elementCells a n x) s) a n = x ∧
      (storeCells (elementCells a n x) s).mem.read a = BitVec.ofInt 8 x

/-! ## Host and engine -/

/-- 20_memory R120: a host store is seen by every later engine read, at once when COHERENT = true; when
COHERENT = false it puts its bytes where a write-back makes them visible, a write-back makes them so
(unless the engine has written them too), and a store followed by a write-back of its bytes is seen by the
engine. -/
def Obligations.HostStoresReachTheEngine : Prop :=
  (∀ (s : State) (rest : List Input) (addr : Word) (width : Width) (value : BitVec 64),
    Delivered (.write addr width value) s rest → s.mem.wf = true →
    targetOf s.params addr width = .data → HostClear [.device, .silent, .errorOnWrite] s addr width →
    ∃ t, step s = .next t ∧ ∀ k < width.bytes,
      t.mem.read (addr.toNat + k) = value.extractLsb' (8 * k) 8 ∧
      (s.params.coherent = true → engineByte t (addr.toNat + k) = value.extractLsb' (8 * k) 8) ∧
      (s.params.coherent = false → t.stale.contains (addr.toNat + k) = false)) ∧
  (∀ (s : State) (rest : List Input) (base size a : Nat),
    Delivered (.clean base size) s rest → s.params.coherent = false → base ≤ a → a < base + size →
    s.stale.contains a = false →
    ∃ t, step s = .next t ∧ t.mem.read a = s.mem.read a ∧ engineByte t a = s.mem.read a) ∧
  ∀ (s : State) (rest : List Input) (addr : Word) (width : Width) (value : BitVec 64) (base size : Nat),
    s.pending = .host (.write addr width value) :: .host (.clean base size) :: rest →
    s.running = none → s.mem.wf = true → s.params.coherent = false →
    targetOf s.params addr width = .data → HostClear [.device, .silent, .errorOnWrite] s addr width →
    base ≤ addr.toNat → addr.toNat + width.bytes ≤ base + size →
    ∃ t, Host.Core.run Sys2Proof.core 2 s = .next t ∧
      ∀ k < width.bytes, engineByte t (addr.toNat + k) = value.extractLsb' (8 * k) 8

/-- 20_memory R121: after a completion the host sees every byte the command wrote, at once when COHERENT =
true; when COHERENT = false, once it has invalidated the bytes (none of them being a store of its own not
yet written back), and a host load that follows the invalidation answers with them. With COHERENT = true
HostLoadReturnsTheMemoryValue says the same of a load at once. -/
def Obligations.EngineStoresReachTheHost : Prop :=
  (∀ (i : Instr) (s t : State), exec i s = .next t → s.params.coherent = true →
    ∀ a, hostByte t a = t.mem.read a) ∧
  (∀ (s : State) (rest : List Input) (base size a : Nat),
    Delivered (.invalidate base size) s rest → s.params.coherent = false → base ≤ a → a < base + size →
    s.unclean.contains a = false →
    ∃ t, step s = .next t ∧ hostByte t a = s.mem.read a) ∧
  ∀ (s : State) (rest : List Input) (addr : Word) (width : Width) (base size : Nat),
    s.pending = .host (.invalidate base size) :: .host (.read addr width) :: rest →
    s.running = none → s.params.coherent = false → targetOf s.params addr width = .data →
    HostClear [.device, .silent, .errorOnRead] s addr width →
    base ≤ addr.toNat → addr.toNat + width.bytes ≤ base + size →
    (∀ k < width.bytes, s.unclean.contains (addr.toNat + k) = false) →
    ∃ t v, Host.Core.run Sys2Proof.core 2 s = .next t ∧ t.response = .data v ∧
      ∀ k < width.bytes, v.extractLsb' (8 * k) 8 = s.mem.read (addr.toNat + k)

/-- 20_memory R121, R122: a host load of the data space answers with the bytes of memory, lowest address in
bits [7:0], and changes nothing else. While a command runs this holds of every load that does not touch its
write region: a load from a read-only region is no race and the command goes on as before. (The bytes are
not waiting for an invalidation, and the platform answers the load: logs 17, 18, 26.) -/
def Obligations.HostLoadReturnsTheMemoryValue : Prop :=
  ∀ (s : State) (rest : List Input) (addr : Word) (width : Width),
    Delivered (.read addr width) s rest → targetOf s.params addr width = .data →
    HostClear [.device, .silent, .errorOnRead] s addr width →
    (s.params.coherent = false → ∀ k < width.bytes, s.stale.contains (addr.toNat + k) = false) →
    (∀ r, s.running = some r → ∀ q ∈ writeRegions r.cmd s.regs,
      q.overlaps ⟨addr.toNat, width.bytes⟩ = false) →
    ∃ v : BitVec 64,
      step s = .next { after s rest (.data v) with draws := s.draws + 1 } ∧
      v.toNat < 2 ^ (8 * width.bytes) ∧
      ∀ k < width.bytes, v.extractLsb' (8 * k) 8 = s.mem.read (addr.toNat + k)

/-- 20_memory R122, 93 U4: a host store to a region of the running command, or a host load from its write
region, while it runs, makes the command's results UNDEFINED: its end event faults. This holds whatever the
host's access is answered, an error of the platform (log 26) or one for its form, where it straddles the
border of the register block or of the address space (log 21); the command's own accesses all end. -/
def Obligations.HostRaceMakesTheCommandUndefined : Prop :=
  ∀ (s : State) (rest : List Input) (r : Running) (addr : Word) (width : Width) (value : BitVec 64),
    s.running = some r → r.stalled = false → workHangs s.params (workLeft r s) = false →
    ((targetOf s.params addr width = .data ∧ HostClear [.device, .silent] s addr width) ∨
      (targetOf s.params addr width = .error ∧
        insideBlock s.params ⟨addr.toNat, width.bytes⟩ = false)) →
    (s.pending = .during (.write addr width value) :: rest ∧
        (∃ q ∈ readRegions r.cmd s.regs ++ writeRegions r.cmd s.regs,
          q.overlaps ⟨addr.toNat, width.bytes⟩ = true) ∨
      s.pending = .during (.read addr width) :: rest ∧
        ∃ q ∈ writeRegions r.cmd s.regs, q.overlaps ⟨addr.toNat, width.bytes⟩ = true) →
    ∃ t r', step s = .next t ∧ t.running = some r' ∧ r'.cmd = r.cmd ∧
      endCommand r' t = .fault .hostRace

/-- 10_state R51, 20_memory R127, 60_exceptions R422: while a command runs its operands are immutable: a step
that leaves BUSY = 1 changes neither the command nor any register but STATUS and ERR_ADDR. That it does not
change memory either, other than by a host event, is the model's choice (log 10: it holds the engine's writes
until the end event). -/
def Obligations.OperandsAreImmutableWhileBusy : Prop :=
  ∀ (s t : State) (r : Running), s.statusGood = true → s.running = some r → step s = .next t →
    t.status.busy = true →
    t.regs = { s.regs with errAddr := t.regs.errAddr } ∧ t.ctrl = s.ctrl ∧
      (∃ r', t.running = some r' ∧ r'.cmd = r.cmd) ∧
      ((∀ e rest, s.pending ≠ .during e :: rest) → t.mem = s.mem)

/-- 60_exceptions R422, R400, 70_reset R503: a running command ends only by completion or by a bus error, of
its own, or by a reset: the one host event that ends it is a hard reset or a CTRL write with SRST = 1. -/
def Obligations.CommandsEndOnlyInTheThreeWays : Prop :=
  ∀ (s t : State) (r : Running), s.statusGood = true → s.running = some r → step s = .next t →
    t.status.busy = false →
    t.running = none ∧
    ((EngineEvent s ∧ t.status.done = true ∧ t.status.err = false) ∨
      (EngineEvent s ∧ t.status.done = false ∧ t.status.err = true ∧ t.status.errCode = .busError) ∨
      (t.status = Status.reset ∧ t.regs = Regs.reset ∧ t.ctrl = Ctrl.reset ∧
        ∃ e rest, s.pending = .during e :: rest ∧ IsReset s e))

/-! ## Invariants -/

/-- Memory keeps its canonical form in every step, from every state that has it. -/
def Obligations.StepKeepsMemoryCanonical : Prop :=
  ∀ s t : State, s.mem.wf = true → step s = .next t → t.mem.wf = true

/-- 00_scope R9, 10_state R34: the parameters are constant for the life of the part. -/
def Obligations.StepKeepsTheParameters : Prop :=
  ∀ s t : State, step s = .next t → t.params = s.params

/-- 10_state R37: at most one of BUSY, DONE and ERR is 1, BUSY exactly while a command runs, ERR_CODE is NONE
exactly while ERR = 0; every step keeps it. -/
def Obligations.StepKeepsStatusExclusive : Prop :=
  ∀ s t : State, s.statusGood = true → step s = .next t → t.statusGood = true

/-- The invariant of the machine (memory canonical and inside 2^32 bytes, STATUS exclusive, ERR_ADDR 0 but for
ADDR_RANGE and BUS_ERROR, a running command legal and writing only its region, parameters legal) is kept
by every step. -/
def Obligations.StepKeepsTheInvariant : Prop :=
  ∀ s t : State, s.good = true → step s = .next t → t.good = true

/-- The invariant holds right after reset, on every part with legal parameters. -/
def Obligations.ResetMeetsTheInvariant : Prop :=
  (∀ p : Params, p.wf = true → (State.resetWith p).good = true) ∧ State.reset.good = true
end

