-- ==== Sys2Proof/Laws/Memory.lean ====
section
/-! SUPPORT. Memory: reading after writing, and the canonical form every operation keeps. -/

namespace Sys2Proof.Machine

@[simp] theorem Memory.read_nil (a : Nat) : Memory.read [] a = Memory.unlisted := rfl

/-- In a canonical memory every address below the first listed one reads as unlisted. -/
theorem Memory.read_below (m : Memory) (a : Nat) (h : ∀ d ∈ m, a < d.1) :
    m.read a = Memory.unlisted := by
  induction m with
  | nil => rfl
  | cons d rest ih =>
    have hd := h d (by simp)
    simp only [Memory.read]
    rw [if_neg (by omega), ih fun e he => h e (by simp [he])]

theorem Memory.wf_cons {c : Nat} {x : Byte} {rest : Memory} :
    Memory.wf ((c, x) :: rest) = true ↔
      x ≠ Memory.unlisted ∧ (∀ d ∈ rest, c < d.1) ∧ rest.wf = true := by
  simp only [Memory.wf, Bool.and_eq_true, bne_iff_ne, ne_eq, List.all_eq_true, decide_eq_true_eq,
    and_assoc]

/-- A byte written is read back. Only below the listed addresses does this use the canonical form. -/
theorem Memory.read_write_same (m : Memory) (a : Nat) (b : Byte) (hm : m.wf = true) :
    (m.write a b).read a = b := by
  induction m with
  | nil => by_cases hb : b = Memory.unlisted <;> simp [Memory.write, Memory.read, hb]
  | cons d rest ih =>
    obtain ⟨c, x⟩ := d
    obtain ⟨-, hlt, hrest⟩ := Memory.wf_cons.mp hm
    simp only [Memory.write]
    by_cases h1 : a < c
    · by_cases hb : b = Memory.unlisted
      · have hbelow : ∀ d ∈ ((c, x) :: rest : Memory), a < d.1 := by
          intro d hd
          rcases List.mem_cons.mp hd with rfl | hd
          · exact h1
          · exact Nat.lt_trans h1 (hlt d hd)
        rw [if_pos h1, if_pos hb, Memory.read_below _ a hbelow, hb]
      · simp [h1, hb, Memory.read]
    · by_cases h2 : a = c
      · subst h2
        by_cases hb : b = Memory.unlisted
        · simp only [Nat.lt_irrefl, if_false, if_true, hb]
          exact Memory.read_below rest a hlt
        · simp [hb, Memory.read]
      · simp [h1, h2, Memory.read, ih hrest]

/-- A write leaves every other address alone. -/
theorem Memory.read_write_ne (m : Memory) {a c : Nat} (b : Byte) (h : c ≠ a) :
    (m.write a b).read c = m.read c := by
  induction m with
  | nil => by_cases hb : b = Memory.unlisted <;> simp [Memory.write, Memory.read, hb, h]
  | cons d rest ih =>
    obtain ⟨k, x⟩ := d
    simp only [Memory.write]
    by_cases h1 : a < k
    · by_cases hb : b = Memory.unlisted <;> simp [h1, hb, Memory.read, h]
    · by_cases h2 : a = k
      · subst h2
        by_cases hb : b = Memory.unlisted <;> simp [hb, Memory.read, h]
      · simp [h1, h2, Memory.read, ih]

theorem Memory.mem_write {m : Memory} {a : Nat} {b : Byte} {d : Host.Cell} (h : d ∈ m.write a b) :
    d ∈ m ∨ d = (a, b) := by
  induction m with
  | nil =>
    by_cases hb : b = Memory.unlisted <;> simp [Memory.write, hb] at h
    exact .inr h
  | cons e rest ih =>
    obtain ⟨k, x⟩ := e
    simp only [Memory.write] at h
    split at h
    · split at h
      · exact .inl h
      · rcases List.mem_cons.mp h with h | h
        · exact .inr h
        · exact .inl h
    · split at h
      · split at h
        · exact .inl (List.mem_cons_of_mem _ h)
        · rcases List.mem_cons.mp h with h | h
          · exact .inr h
          · exact .inl (List.mem_cons_of_mem _ h)
      · rcases List.mem_cons.mp h with h | h
        · exact .inl (by simp [h])
        · exact (ih h).imp_left (List.mem_cons_of_mem _)

/-- A write keeps the canonical form. -/
theorem Memory.write_wf (m : Memory) (a : Nat) (b : Byte) (hm : m.wf = true) :
    (m.write a b).wf = true := by
  induction m with
  | nil =>
    by_cases hb : b = Memory.unlisted
    · simp [Memory.write, hb, Memory.wf]
    · simp [Memory.write, hb, Memory.wf]
  | cons d rest ih =>
    obtain ⟨c, x⟩ := d
    obtain ⟨hx, hlt, hrest⟩ := Memory.wf_cons.mp hm
    simp only [Memory.write]
    by_cases h1 : a < c
    · by_cases hb : b = Memory.unlisted
      · simpa [h1, hb] using hm
      · simp only [h1, if_true, hb, if_false]
        refine Memory.wf_cons.mpr ⟨hb, ?_, hm⟩
        intro d hd
        rcases List.mem_cons.mp hd with rfl | hd
        · exact h1
        · exact Nat.lt_trans h1 (hlt d hd)
    · by_cases h2 : a = c
      · subst h2
        by_cases hb : b = Memory.unlisted
        · simpa [hb] using hrest
        · simp only [Nat.lt_irrefl, if_false, if_true, hb]
          exact Memory.wf_cons.mpr ⟨hb, hlt, hrest⟩
      · simp only [h1, h2, if_false]
        refine Memory.wf_cons.mpr ⟨hx, ?_, ih hrest⟩
        intro d hd
        rcases Memory.mem_write hd with hd | rfl
        · exact hlt d hd
        · show c < a
          omega

@[simp] theorem Memory.writeCells_nil (m : Memory) : m.writeCells [] = m := rfl

@[simp] theorem Memory.writeCells_cons (m : Memory) (c : Host.Cell) (cs : List Host.Cell) :
    m.writeCells (c :: cs) = (m.write c.1 c.2).writeCells cs := rfl

theorem Memory.writeCells_append (m : Memory) (cs ds : List Host.Cell) :
    m.writeCells (cs ++ ds) = (m.writeCells cs).writeCells ds := by
  simp [Memory.writeCells, List.foldl_append]

/-- Storing a list of bytes keeps the canonical form. -/
theorem Memory.writeCells_wf (m : Memory) (cs : List Host.Cell) (hm : m.wf = true) :
    (m.writeCells cs).wf = true := by
  induction cs generalizing m with
  | nil => exact hm
  | cons c cs ih => exact ih _ (Memory.write_wf m c.1 c.2 hm)

/-- Storing a list of bytes leaves every address alone that it does not name. -/
theorem Memory.read_writeCells_other (m : Memory) (cs : List Host.Cell) (a : Nat)
    (h : ∀ c ∈ cs, c.1 ≠ a) : (m.writeCells cs).read a = m.read a := by
  induction cs generalizing m with
  | nil => rfl
  | cons c cs ih =>
    rw [Memory.writeCells_cons, ih _ fun d hd => h d (by simp [hd]),
      Memory.read_write_ne m c.2 (Ne.symm (h c (by simp)))]

/-- Storing a list of bytes that names an address once leaves that byte there. -/
theorem Memory.read_writeCells_mem (m : Memory) (cs : List Host.Cell) (a : Nat) (b : Byte)
    (hm : m.wf = true) (hmem : (a, b) ∈ cs) (honce : (cs.map (·.1)).Nodup) :
    (m.writeCells cs).read a = b := by
  induction cs generalizing m with
  | nil => simp at hmem
  | cons c cs ih =>
    simp only [List.map_cons, List.nodup_cons, List.mem_map, not_exists, not_and] at honce
    rw [Memory.writeCells_cons]
    rcases List.mem_cons.mp hmem with rfl | hmem
    · rw [Memory.read_writeCells_other _ cs a fun d hd => honce.1 d hd,
        Memory.read_write_same m a b hm]
    · exact ih _ (Memory.write_wf m c.1 c.2 hm) hmem honce.2

/-- After storing a list of bytes, each address reads as before or as one of the bytes stored there. -/
theorem Memory.read_writeCells_cases (m : Memory) (cs : List Host.Cell) (a : Nat) (hm : m.wf = true) :
    (m.writeCells cs).read a = m.read a ∨ ∃ b, (a, b) ∈ cs ∧ (m.writeCells cs).read a = b := by
  induction cs generalizing m with
  | nil => exact .inl rfl
  | cons c cs ih =>
    rw [Memory.writeCells_cons]
    rcases ih _ (Memory.write_wf m c.1 c.2 hm) with h | ⟨b, hb, h⟩
    · by_cases hc : a = c.1
      · subst hc
        rw [Memory.read_write_same m c.1 c.2 hm] at h
        exact .inr ⟨c.2, by simp, h⟩
      · rw [Memory.read_write_ne m c.2 hc] at h
        exact .inl h
    · exact .inr ⟨b, List.mem_cons_of_mem _ hb, h⟩

end Sys2Proof.Machine
end

