-- ==== Sys2Proof/Laws/State.lean ====
section
/-! SUPPORT. One lemma per field per update of State, each true by `rfl`, so that no later proof unfolds a
record update. -/

namespace Sys2Proof.Machine

/-! ## raiseError -/

@[simp] theorem raiseError_regs (c : ErrCode) (a : Word) (s : State) :
    (raiseError c a s).regs = { s.regs with errAddr := a } := rfl

@[simp] theorem raiseError_ctrl (c : ErrCode) (a : Word) (s : State) :
    (raiseError c a s).ctrl = s.ctrl := rfl

@[simp] theorem raiseError_status (c : ErrCode) (a : Word) (s : State) :
    (raiseError c a s).status = s.status.failed c := rfl

@[simp] theorem raiseError_mem (c : ErrCode) (a : Word) (s : State) :
    (raiseError c a s).mem = s.mem := rfl

@[simp] theorem raiseError_unclean (c : ErrCode) (a : Word) (s : State) :
    (raiseError c a s).unclean = s.unclean := rfl

@[simp] theorem raiseError_stale (c : ErrCode) (a : Word) (s : State) :
    (raiseError c a s).stale = s.stale := rfl

@[simp] theorem raiseError_running (c : ErrCode) (a : Word) (s : State) :
    (raiseError c a s).running = none := rfl

@[simp] theorem raiseError_pending (c : ErrCode) (a : Word) (s : State) :
    (raiseError c a s).pending = s.pending := rfl

@[simp] theorem raiseError_response (c : ErrCode) (a : Word) (s : State) :
    (raiseError c a s).response = s.response := rfl

@[simp] theorem raiseError_params (c : ErrCode) (a : Word) (s : State) :
    (raiseError c a s).params = s.params := rfl

@[simp] theorem raiseError_draws (c : ErrCode) (a : Word) (s : State) :
    (raiseError c a s).draws = s.draws := rfl

/-! ## writeStatus -/

@[simp] theorem writeStatus_regs (w : Word) (s : State) :
    (writeStatus w s).regs = { s.regs with errAddr := if w.getLsbD 2 then 0#32 else s.regs.errAddr } := rfl

@[simp] theorem writeStatus_ctrl (w : Word) (s : State) :
    (writeStatus w s).ctrl = s.ctrl := rfl

@[simp] theorem writeStatus_status (w : Word) (s : State) :
    (writeStatus w s).status = s.status.acknowledged w := rfl

@[simp] theorem writeStatus_mem (w : Word) (s : State) :
    (writeStatus w s).mem = s.mem := rfl

@[simp] theorem writeStatus_unclean (w : Word) (s : State) :
    (writeStatus w s).unclean = s.unclean := rfl

@[simp] theorem writeStatus_stale (w : Word) (s : State) :
    (writeStatus w s).stale = s.stale := rfl

@[simp] theorem writeStatus_running (w : Word) (s : State) :
    (writeStatus w s).running = s.running := rfl

@[simp] theorem writeStatus_pending (w : Word) (s : State) :
    (writeStatus w s).pending = s.pending := rfl

@[simp] theorem writeStatus_response (w : Word) (s : State) :
    (writeStatus w s).response = s.response := rfl

@[simp] theorem writeStatus_params (w : Word) (s : State) :
    (writeStatus w s).params = s.params := rfl

@[simp] theorem writeStatus_draws (w : Word) (s : State) :
    (writeStatus w s).draws = s.draws := rfl

/-! ## ignoreWrite -/

@[simp] theorem ignoreWrite_regs (s : State) :
    (ignoreWrite s).regs = s.regs := rfl

@[simp] theorem ignoreWrite_ctrl (s : State) :
    (ignoreWrite s).ctrl = s.ctrl := rfl

@[simp] theorem ignoreWrite_status (s : State) :
    (ignoreWrite s).status = s.status.ignored := rfl

@[simp] theorem ignoreWrite_mem (s : State) :
    (ignoreWrite s).mem = s.mem := rfl

@[simp] theorem ignoreWrite_unclean (s : State) :
    (ignoreWrite s).unclean = s.unclean := rfl

@[simp] theorem ignoreWrite_stale (s : State) :
    (ignoreWrite s).stale = s.stale := rfl

@[simp] theorem ignoreWrite_running (s : State) :
    (ignoreWrite s).running = s.running := rfl

@[simp] theorem ignoreWrite_pending (s : State) :
    (ignoreWrite s).pending = s.pending := rfl

@[simp] theorem ignoreWrite_response (s : State) :
    (ignoreWrite s).response = s.response := rfl

@[simp] theorem ignoreWrite_params (s : State) :
    (ignoreWrite s).params = s.params := rfl

@[simp] theorem ignoreWrite_draws (s : State) :
    (ignoreWrite s).draws = s.draws := rfl

/-! ## storeEnables -/

@[simp] theorem storeEnables_regs (w : Word) (s : State) :
    (storeEnables w s).regs = s.regs := rfl

@[simp] theorem storeEnables_ctrl (w : Word) (s : State) :
    (storeEnables w s).ctrl = Ctrl.written w := rfl

@[simp] theorem storeEnables_status (w : Word) (s : State) :
    (storeEnables w s).status = s.status := rfl

@[simp] theorem storeEnables_mem (w : Word) (s : State) :
    (storeEnables w s).mem = s.mem := rfl

@[simp] theorem storeEnables_unclean (w : Word) (s : State) :
    (storeEnables w s).unclean = s.unclean := rfl

@[simp] theorem storeEnables_stale (w : Word) (s : State) :
    (storeEnables w s).stale = s.stale := rfl

@[simp] theorem storeEnables_running (w : Word) (s : State) :
    (storeEnables w s).running = s.running := rfl

@[simp] theorem storeEnables_pending (w : Word) (s : State) :
    (storeEnables w s).pending = s.pending := rfl

@[simp] theorem storeEnables_response (w : Word) (s : State) :
    (storeEnables w s).response = s.response := rfl

@[simp] theorem storeEnables_params (w : Word) (s : State) :
    (storeEnables w s).params = s.params := rfl

@[simp] theorem storeEnables_draws (w : Word) (s : State) :
    (storeEnables w s).draws = s.draws := rfl

/-! ## acceptStart -/

@[simp] theorem acceptStart_regs (s : State) :
    (acceptStart s).regs = { s.regs with errAddr := 0#32 } := rfl

@[simp] theorem acceptStart_ctrl (s : State) :
    (acceptStart s).ctrl = s.ctrl := rfl

@[simp] theorem acceptStart_status (s : State) :
    (acceptStart s).status = s.status.accepted := rfl

@[simp] theorem acceptStart_mem (s : State) :
    (acceptStart s).mem = s.mem := rfl

@[simp] theorem acceptStart_unclean (s : State) :
    (acceptStart s).unclean = s.unclean := rfl

@[simp] theorem acceptStart_stale (s : State) :
    (acceptStart s).stale = s.stale := rfl

@[simp] theorem acceptStart_running (s : State) :
    (acceptStart s).running = s.running := rfl

@[simp] theorem acceptStart_pending (s : State) :
    (acceptStart s).pending = s.pending := rfl

@[simp] theorem acceptStart_response (s : State) :
    (acceptStart s).response = s.response := rfl

@[simp] theorem acceptStart_params (s : State) :
    (acceptStart s).params = s.params := rfl

@[simp] theorem acceptStart_draws (s : State) :
    (acceptStart s).draws = s.draws + 1 := rfl

/-! ## resetRegisters -/

@[simp] theorem resetRegisters_regs (s : State) :
    (resetRegisters s).regs = Regs.reset := rfl

@[simp] theorem resetRegisters_ctrl (s : State) :
    (resetRegisters s).ctrl = Ctrl.reset := rfl

@[simp] theorem resetRegisters_status (s : State) :
    (resetRegisters s).status = Status.reset := rfl

@[simp] theorem resetRegisters_mem (s : State) :
    (resetRegisters s).mem = s.mem := rfl

@[simp] theorem resetRegisters_unclean (s : State) :
    (resetRegisters s).unclean = s.unclean := rfl

@[simp] theorem resetRegisters_stale (s : State) :
    (resetRegisters s).stale = s.stale := rfl

@[simp] theorem resetRegisters_running (s : State) :
    (resetRegisters s).running = none := rfl

@[simp] theorem resetRegisters_pending (s : State) :
    (resetRegisters s).pending = s.pending := rfl

@[simp] theorem resetRegisters_response (s : State) :
    (resetRegisters s).response = s.response := rfl

@[simp] theorem resetRegisters_params (s : State) :
    (resetRegisters s).params = s.params := rfl

@[simp] theorem resetRegisters_draws (s : State) :
    (resetRegisters s).draws = s.draws := rfl

/-! ## respond -/

@[simp] theorem respond_regs (a : Response) (s : State) :
    (respond a s).regs = s.regs := rfl

@[simp] theorem respond_ctrl (a : Response) (s : State) :
    (respond a s).ctrl = s.ctrl := rfl

@[simp] theorem respond_status (a : Response) (s : State) :
    (respond a s).status = s.status := rfl

@[simp] theorem respond_mem (a : Response) (s : State) :
    (respond a s).mem = s.mem := rfl

@[simp] theorem respond_unclean (a : Response) (s : State) :
    (respond a s).unclean = s.unclean := rfl

@[simp] theorem respond_stale (a : Response) (s : State) :
    (respond a s).stale = s.stale := rfl

@[simp] theorem respond_running (a : Response) (s : State) :
    (respond a s).running = s.running := rfl

@[simp] theorem respond_pending (a : Response) (s : State) :
    (respond a s).pending = s.pending := rfl

@[simp] theorem respond_response (a : Response) (s : State) :
    (respond a s).response = a := rfl

@[simp] theorem respond_params (a : Response) (s : State) :
    (respond a s).params = s.params := rfl

@[simp] theorem respond_draws (a : Response) (s : State) :
    (respond a s).draws = s.draws := rfl

/-! ## storeCells -/

@[simp] theorem storeCells_regs (cs : List Host.Cell) (s : State) :
    (storeCells cs s).regs = s.regs := rfl

@[simp] theorem storeCells_ctrl (cs : List Host.Cell) (s : State) :
    (storeCells cs s).ctrl = s.ctrl := rfl

@[simp] theorem storeCells_status (cs : List Host.Cell) (s : State) :
    (storeCells cs s).status = s.status := rfl

@[simp] theorem storeCells_mem (cs : List Host.Cell) (s : State) :
    (storeCells cs s).mem = s.mem.writeCells cs := rfl

@[simp] theorem storeCells_unclean (cs : List Host.Cell) (s : State) :
    (storeCells cs s).unclean = s.unclean := rfl

@[simp] theorem storeCells_stale (cs : List Host.Cell) (s : State) :
    (storeCells cs s).stale = staleAfter s cs := rfl

@[simp] theorem storeCells_running (cs : List Host.Cell) (s : State) :
    (storeCells cs s).running = s.running := rfl

@[simp] theorem storeCells_pending (cs : List Host.Cell) (s : State) :
    (storeCells cs s).pending = s.pending := rfl

@[simp] theorem storeCells_response (cs : List Host.Cell) (s : State) :
    (storeCells cs s).response = s.response := rfl

@[simp] theorem storeCells_params (cs : List Host.Cell) (s : State) :
    (storeCells cs s).params = s.params := rfl

@[simp] theorem storeCells_draws (cs : List Host.Cell) (s : State) :
    (storeCells cs s).draws = s.draws := rfl

/-! ## completeCommand -/

@[simp] theorem completeCommand_regs (cs : List Host.Cell) (g : Regs) (s : State) :
    (completeCommand cs g s).regs = g := rfl

@[simp] theorem completeCommand_ctrl (cs : List Host.Cell) (g : Regs) (s : State) :
    (completeCommand cs g s).ctrl = s.ctrl := rfl

@[simp] theorem completeCommand_status (cs : List Host.Cell) (g : Regs) (s : State) :
    (completeCommand cs g s).status = s.status.completed := rfl

@[simp] theorem completeCommand_mem (cs : List Host.Cell) (g : Regs) (s : State) :
    (completeCommand cs g s).mem = s.mem.writeCells cs := rfl

@[simp] theorem completeCommand_unclean (cs : List Host.Cell) (g : Regs) (s : State) :
    (completeCommand cs g s).unclean = s.unclean := rfl

@[simp] theorem completeCommand_stale (cs : List Host.Cell) (g : Regs) (s : State) :
    (completeCommand cs g s).stale = staleAfter s cs := rfl

@[simp] theorem completeCommand_running (cs : List Host.Cell) (g : Regs) (s : State) :
    (completeCommand cs g s).running = none := rfl

@[simp] theorem completeCommand_pending (cs : List Host.Cell) (g : Regs) (s : State) :
    (completeCommand cs g s).pending = s.pending := rfl

@[simp] theorem completeCommand_response (cs : List Host.Cell) (g : Regs) (s : State) :
    (completeCommand cs g s).response = s.response := rfl

@[simp] theorem completeCommand_params (cs : List Host.Cell) (g : Regs) (s : State) :
    (completeCommand cs g s).params = s.params := rfl

@[simp] theorem completeCommand_draws (cs : List Host.Cell) (g : Regs) (s : State) :
    (completeCommand cs g s).draws = s.draws := rfl

/-! ## busErrorEnd -/

@[simp] theorem busErrorEnd_regs (c : List Nat) (w : List WorkUnit) (s : State) :
    (busErrorEnd c w s).regs = { s.regs with errAddr := BitVec.ofNat 32 (pickErrAddr s.draws c) } := rfl

@[simp] theorem busErrorEnd_ctrl (c : List Nat) (w : List WorkUnit) (s : State) :
    (busErrorEnd c w s).ctrl = s.ctrl := rfl

@[simp] theorem busErrorEnd_status (c : List Nat) (w : List WorkUnit) (s : State) :
    (busErrorEnd c w s).status = s.status.failed .busError := rfl

@[simp] theorem busErrorEnd_mem (c : List Nat) (w : List WorkUnit) (s : State) :
    (busErrorEnd c w s).mem = s.mem.writeCells (abortedCells s.params s.draws w) := rfl

@[simp] theorem busErrorEnd_unclean (c : List Nat) (w : List WorkUnit) (s : State) :
    (busErrorEnd c w s).unclean = s.unclean := rfl

@[simp] theorem busErrorEnd_stale (c : List Nat) (w : List WorkUnit) (s : State) :
    (busErrorEnd c w s).stale = staleAfter s (abortedCells s.params s.draws w) := rfl

@[simp] theorem busErrorEnd_running (c : List Nat) (w : List WorkUnit) (s : State) :
    (busErrorEnd c w s).running = none := rfl

@[simp] theorem busErrorEnd_pending (c : List Nat) (w : List WorkUnit) (s : State) :
    (busErrorEnd c w s).pending = s.pending := rfl

@[simp] theorem busErrorEnd_response (c : List Nat) (w : List WorkUnit) (s : State) :
    (busErrorEnd c w s).response = s.response := rfl

@[simp] theorem busErrorEnd_params (c : List Nat) (w : List WorkUnit) (s : State) :
    (busErrorEnd c w s).params = s.params := rfl

@[simp] theorem busErrorEnd_draws (c : List Nat) (w : List WorkUnit) (s : State) :
    (busErrorEnd c w s).draws = s.draws + 1 := rfl

/-! ## abandonWith -/

@[simp] theorem abandonWith_regs (w : List WorkUnit) (s : State) :
    (abandonWith w s).regs = s.regs := rfl

@[simp] theorem abandonWith_ctrl (w : List WorkUnit) (s : State) :
    (abandonWith w s).ctrl = s.ctrl := rfl

@[simp] theorem abandonWith_status (w : List WorkUnit) (s : State) :
    (abandonWith w s).status = s.status := rfl

@[simp] theorem abandonWith_mem (w : List WorkUnit) (s : State) :
    (abandonWith w s).mem = s.mem.writeCells (abortedCells s.params s.draws w) := rfl

@[simp] theorem abandonWith_unclean (w : List WorkUnit) (s : State) :
    (abandonWith w s).unclean = s.unclean := rfl

@[simp] theorem abandonWith_stale (w : List WorkUnit) (s : State) :
    (abandonWith w s).stale = staleAfter s (abortedCells s.params s.draws w) := rfl

@[simp] theorem abandonWith_running (w : List WorkUnit) (s : State) :
    (abandonWith w s).running = s.running := rfl

@[simp] theorem abandonWith_pending (w : List WorkUnit) (s : State) :
    (abandonWith w s).pending = s.pending := rfl

@[simp] theorem abandonWith_response (w : List WorkUnit) (s : State) :
    (abandonWith w s).response = s.response := rfl

@[simp] theorem abandonWith_params (w : List WorkUnit) (s : State) :
    (abandonWith w s).params = s.params := rfl

@[simp] theorem abandonWith_draws (w : List WorkUnit) (s : State) :
    (abandonWith w s).draws = s.draws + 1 := rfl

/-! ## abandonRaced -/

@[simp] theorem abandonRaced_mem (q : List Region) (s : State) :
    (abandonRaced q s).mem = s.mem.writeCells (undefinedCells s.draws q) := rfl

@[simp] theorem abandonRaced_unclean (q : List Region) (s : State) :
    (abandonRaced q s).unclean = s.unclean := rfl

@[simp] theorem abandonRaced_stale (q : List Region) (s : State) :
    (abandonRaced q s).stale = staleAfter s (undefinedCells s.draws q) := rfl

@[simp] theorem abandonRaced_pending (q : List Region) (s : State) :
    (abandonRaced q s).pending = s.pending := rfl

@[simp] theorem abandonRaced_response (q : List Region) (s : State) :
    (abandonRaced q s).response = s.response := rfl

@[simp] theorem abandonRaced_params (q : List Region) (s : State) :
    (abandonRaced q s).params = s.params := rfl

@[simp] theorem abandonRaced_draws (q : List Region) (s : State) :
    (abandonRaced q s).draws = s.draws + 1 := rfl

/-! ## stallCommand -/

@[simp] theorem stallCommand_regs (r : Running) (s : State) :
    (stallCommand r s).regs = s.regs := rfl

@[simp] theorem stallCommand_ctrl (r : Running) (s : State) :
    (stallCommand r s).ctrl = s.ctrl := rfl

@[simp] theorem stallCommand_status (r : Running) (s : State) :
    (stallCommand r s).status = s.status := rfl

@[simp] theorem stallCommand_mem (r : Running) (s : State) :
    (stallCommand r s).mem = s.mem := rfl

@[simp] theorem stallCommand_unclean (r : Running) (s : State) :
    (stallCommand r s).unclean = s.unclean := rfl

@[simp] theorem stallCommand_stale (r : Running) (s : State) :
    (stallCommand r s).stale = s.stale := rfl

@[simp] theorem stallCommand_pending (r : Running) (s : State) :
    (stallCommand r s).pending = s.pending := rfl

@[simp] theorem stallCommand_response (r : Running) (s : State) :
    (stallCommand r s).response = s.response := rfl

@[simp] theorem stallCommand_params (r : Running) (s : State) :
    (stallCommand r s).params = s.params := rfl

@[simp] theorem stallCommand_draws (r : Running) (s : State) :
    (stallCommand r s).draws = s.draws := rfl

@[simp] theorem stallCommand_running (r : Running) (s : State) :
    (stallCommand r s).running = some { r with stalled := true } := rfl

/-! ## beginCommand -/

@[simp] theorem beginCommand_regs (i : Instr) (s : State) :
    (beginCommand i s).regs = s.regs := rfl

@[simp] theorem beginCommand_ctrl (i : Instr) (s : State) :
    (beginCommand i s).ctrl = s.ctrl := rfl

@[simp] theorem beginCommand_status (i : Instr) (s : State) :
    (beginCommand i s).status = s.status.begun := rfl

@[simp] theorem beginCommand_mem (i : Instr) (s : State) :
    (beginCommand i s).mem = s.mem := rfl

@[simp] theorem beginCommand_unclean (i : Instr) (s : State) :
    (beginCommand i s).unclean = s.unclean := rfl

@[simp] theorem beginCommand_stale (i : Instr) (s : State) :
    (beginCommand i s).stale = s.stale := rfl

@[simp] theorem beginCommand_running (i : Instr) (s : State) :
    (beginCommand i s).running = some (Running.start i) := rfl

@[simp] theorem beginCommand_pending (i : Instr) (s : State) :
    (beginCommand i s).pending = s.pending := rfl

@[simp] theorem beginCommand_response (i : Instr) (s : State) :
    (beginCommand i s).response = s.response := rfl

@[simp] theorem beginCommand_params (i : Instr) (s : State) :
    (beginCommand i s).params = s.params := rfl

@[simp] theorem beginCommand_draws (i : Instr) (s : State) :
    (beginCommand i s).draws = s.draws := rfl

/-! ## STATUS updates -/

@[simp] theorem Status.accepted_busy (st : Status) :
    (st.accepted).busy = st.busy := rfl

@[simp] theorem Status.accepted_done (st : Status) :
    (st.accepted).done = false := rfl

@[simp] theorem Status.accepted_err (st : Status) :
    (st.accepted).err = false := rfl

@[simp] theorem Status.accepted_ign (st : Status) :
    (st.accepted).ign = st.ign := rfl

@[simp] theorem Status.accepted_errCode (st : Status) :
    (st.accepted).errCode = .none := rfl

@[simp] theorem Status.begun_busy (st : Status) :
    (st.begun).busy = true := rfl

@[simp] theorem Status.begun_done (st : Status) :
    (st.begun).done = st.done := rfl

@[simp] theorem Status.begun_err (st : Status) :
    (st.begun).err = st.err := rfl

@[simp] theorem Status.begun_ign (st : Status) :
    (st.begun).ign = st.ign := rfl

@[simp] theorem Status.begun_errCode (st : Status) :
    (st.begun).errCode = st.errCode := rfl

@[simp] theorem Status.completed_busy (st : Status) :
    (st.completed).busy = false := rfl

@[simp] theorem Status.completed_done (st : Status) :
    (st.completed).done = true := rfl

@[simp] theorem Status.completed_err (st : Status) :
    (st.completed).err = st.err := rfl

@[simp] theorem Status.completed_ign (st : Status) :
    (st.completed).ign = st.ign := rfl

@[simp] theorem Status.completed_errCode (st : Status) :
    (st.completed).errCode = st.errCode := rfl

@[simp] theorem Status.failed_busy (c : ErrCode) (st : Status) :
    (st.failed c).busy = false := rfl

@[simp] theorem Status.failed_done (c : ErrCode) (st : Status) :
    (st.failed c).done = st.done := rfl

@[simp] theorem Status.failed_err (c : ErrCode) (st : Status) :
    (st.failed c).err = true := rfl

@[simp] theorem Status.failed_ign (c : ErrCode) (st : Status) :
    (st.failed c).ign = st.ign := rfl

@[simp] theorem Status.failed_errCode (c : ErrCode) (st : Status) :
    (st.failed c).errCode = c := rfl

@[simp] theorem Status.ignored_busy (st : Status) :
    (st.ignored).busy = st.busy := rfl

@[simp] theorem Status.ignored_done (st : Status) :
    (st.ignored).done = st.done := rfl

@[simp] theorem Status.ignored_err (st : Status) :
    (st.ignored).err = st.err := rfl

@[simp] theorem Status.ignored_ign (st : Status) :
    (st.ignored).ign = true := rfl

@[simp] theorem Status.ignored_errCode (st : Status) :
    (st.ignored).errCode = st.errCode := rfl

@[simp] theorem Status.acknowledged_busy (w : Word) (st : Status) :
    (st.acknowledged w).busy = st.busy := rfl

@[simp] theorem Status.acknowledged_done (w : Word) (st : Status) :
    (st.acknowledged w).done = (st.done && !w.getLsbD 1) := rfl

@[simp] theorem Status.acknowledged_err (w : Word) (st : Status) :
    (st.acknowledged w).err = (st.err && !w.getLsbD 2) := rfl

@[simp] theorem Status.acknowledged_ign (w : Word) (st : Status) :
    (st.acknowledged w).ign = (st.ign && !w.getLsbD 3) := rfl

@[simp] theorem Status.acknowledged_errCode (w : Word) (st : Status) :
    (st.acknowledged w).errCode = (if w.getLsbD 2 then .none else st.errCode) := rfl

end Sys2Proof.Machine
end

