-- ==== Sys2Proof/Laws/Ops.lean ====
section
/-! SUPPORT. What the shared life of a command can do, said once: its end (`endWith`), its start
(`runCommand`), its abort (`resetBlock`, `engineTurn`), a race of the host
(`markRace`, `strayAccess`). Later proofs cite these and do not unfold. -/

namespace Sys2Proof.Machine

/-! ## What a command meets (`exposed`) -/

/-- A unit answers exactly when none of its accesses errs and none hangs. -/
theorem answers_iff (p : Params) (u : WorkUnit) :
    u.answers p = true ↔ u.errAddrs p = [] ∧ u.hangs p = false := by
  simp [WorkUnit.answers, List.isEmpty_iff]

/-- Work of which no access errs or hangs answers, unit by unit, and conversely. -/
theorem answers_all_iff (p : Params) (work : List WorkUnit) :
    (∀ u ∈ work, u.answers p = true) ↔ workErrAddrs p work = [] ∧ workHangs p work = false := by
  simp only [answers_iff, workErrAddrs, workHangs, List.flatMap_eq_nil_iff, List.any_eq_false,
    Bool.not_eq_true]
  exact forall₂_and

/-- Units that answer are passed by. -/
theorem exposed_append (p : Params) (w : Nat) (done work : List WorkUnit)
    (h : ∀ u ∈ done, u.answers p = true) : exposed p w (done ++ work) = exposed p w work := by
  have hd : (done ++ work).dropWhile (WorkUnit.answers p) = work.dropWhile (WorkUnit.answers p) := by
    rw [List.dropWhile_append, List.dropWhile_eq_nil_iff.mpr h]
    simp
  simp only [exposed, hd]

/-- Work that answers meets nothing. -/
theorem exposed_of_answers (p : Params) (w : Nat) (work : List WorkUnit)
    (h : ∀ u ∈ work, u.answers p = true) : exposed p w work = ⟨[], false⟩ := by
  simp [exposed, List.dropWhile_eq_nil_iff.mpr h]

/-- The units a step can reach are units of the work. -/
theorem mem_of_mem_window {p : Params} {w : Nat} {work : List WorkUnit} {u : WorkUnit}
    (h : u ∈ (work.dropWhile (WorkUnit.answers p)).take (max 1 w)) : u ∈ work :=
  (List.dropWhile_suffix _).subset (List.mem_of_mem_take h)

/-- What is met is an error of the work. -/
theorem exposed_errAddrs_subset (p : Params) (w : Nat) (work : List WorkUnit) :
    ∀ a ∈ (exposed p w work).errAddrs, a ∈ workErrAddrs p work := by
  intro a h
  simp only [exposed, List.mem_append, List.mem_flatMap] at h
  rcases h with ⟨u, hu, ha⟩ | ⟨u, hu, ha⟩
  · exact List.mem_flatMap.mpr ⟨u, mem_of_mem_window hu, List.mem_append.mpr (.inl ha)⟩
  · exact List.mem_flatMap.mpr
      ⟨u, mem_of_mem_window ((List.takeWhile_prefix _).subset hu), List.mem_append.mpr (.inr ha)⟩

/-- Without an access that never ends, none is met. -/
theorem exposed_hangs_false (p : Params) (w : Nat) (work : List WorkUnit)
    (h : workHangs p work = false) : (exposed p w work).hangs = false := by
  simp only [workHangs, List.any_eq_false, Bool.not_eq_true, WorkUnit.hangs, Bool.or_eq_false_iff] at h
  simp only [exposed, Bool.or_eq_false_iff, List.any_eq_false, Bool.not_eq_true]
  exact ⟨fun u hu => (h u (mem_of_mem_window hu)).1,
    fun u hu => (h u (mem_of_mem_window ((List.takeWhile_prefix _).subset hu))).2⟩

/-- The first unit that does not answer is met: its reads, or its writes when its reads return. -/
theorem exposed_met (p : Params) (w : Nat) (work : List WorkUnit)
    (h : ∃ u ∈ work, u.answers p = false) :
    (exposed p w work).errAddrs ≠ [] ∨ (exposed p w work).hangs = true := by
  obtain ⟨u, rest, hd⟩ : ∃ u rest, work.dropWhile (WorkUnit.answers p) = u :: rest := by
    cases hd : work.dropWhile (WorkUnit.answers p) with
    | cons u rest => exact ⟨u, rest, rfl⟩
    | nil =>
      obtain ⟨u, hu, hf⟩ := h
      have := List.dropWhile_eq_nil_iff.mp hd u hu
      simp [hf] at this
  have hu : u.answers p = false := by
    have := List.head_dropWhile_not (WorkUnit.answers p) (l := work) (by simp [hd])
    simpa [hd] using this
  obtain ⟨n, hn⟩ : ∃ n, max 1 w = n + 1 := ⟨max 1 w - 1, by omega⟩
  simp only [exposed, hd, hn, List.take_succ_cons, List.flatMap_cons, List.any_cons]
  cases hr : u.readsReturn p
  · simp only [WorkUnit.readsReturn, Bool.and_eq_false_iff] at hr
    rcases hr with hr | hr
    · left
      intro hnil
      simp only [List.append_eq_nil_iff] at hnil
      simp [hnil.1.1] at hr
    · right
      simp only [Bool.not_eq_false'] at hr
      simp [hr]
  · simp only [List.takeWhile_cons, hr, if_true, List.flatMap_cons, List.any_cons]
    simp only [WorkUnit.readsReturn, Bool.and_eq_true, List.isEmpty_iff, Bool.not_eq_true'] at hr
    simp only [WorkUnit.answers, WorkUnit.errAddrs, WorkUnit.hangs, hr.1, hr.2, List.nil_append,
      Bool.false_or, Bool.and_eq_false_iff, Bool.not_eq_false'] at hu
    rcases hu with hu | hu
    · left
      intro hnil
      simp only [List.append_eq_nil_iff] at hnil
      simp [hnil.2.1] at hu
    · right
      simp [hu]

/-! ## The end of a command (`endWith`) -/

/-- The five ways the end event of a command comes out. -/
theorem endWith_cases (r : Running) (x : Exposed) (work : List WorkUnit) (results : Regs) (s : State) :
    (r.stalled = true ∧ endWith r x work results s = .next s) ∨
    (r.stalled = false ∧ x.hangs = true ∧ endWith r x work results s = .next (stallCommand r s)) ∨
    (r.stalled = false ∧ r.raced = true ∧ endWith r x work results s = .fault .hostRace) ∨
    (r.stalled = false ∧ r.raced = false ∧ x.errAddrs = [] ∧ x.hangs = false ∧
      endWith r x work results s = .next (completeCommand (workCells work) results s)) ∨
    (r.stalled = false ∧ r.raced = false ∧ x.errAddrs ≠ [] ∧
      endWith r x work results s = .next (busErrorEnd x.errAddrs work s)) := by
  unfold endWith
  cases hs : r.stalled <;> cases hr : r.raced <;> cases hh : x.hangs <;>
    cases he : x.errAddrs.isEmpty <;> cases hf : Config.hangsFirst s.draws <;> simp_all

/-- A command that meets nothing, and that the host left alone, completes. -/
theorem endWith_completes (r : Running) (work : List WorkUnit) (results : Regs) (s : State)
    (hs : r.stalled = false) (hr : r.raced = false) :
    endWith r ⟨[], false⟩ work results s = .next (completeCommand (workCells work) results s) := by
  simp [endWith, hr, hs]

/-- A command that meets an error response, and no access that hangs, takes the bus error. -/
theorem endWith_busError (r : Running) (x : Exposed) (work : List WorkUnit) (results : Regs) (s : State)
    (hs : r.stalled = false) (hr : r.raced = false) (he : x.errAddrs ≠ []) (hh : x.hangs = false) :
    endWith r x work results s = .next (busErrorEnd x.errAddrs work s) := by
  simp [endWith, hr, he, hh, hs]

/-- A command that meets an access that hangs, and no error response, stalls. -/
theorem endWith_hangs (r : Running) (x : Exposed) (work : List WorkUnit) (results : Regs) (s : State)
    (hs : r.stalled = false) (he : x.errAddrs = []) (hh : x.hangs = true) :
    endWith r x work results s = .next (stallCommand r s) := by
  simp [endWith, he, hh, hs]

/-- When the end event gives a state, that state is one of four. -/
theorem endWith_next {r : Running} {x : Exposed} {work : List WorkUnit} {results : Regs} {s t : State}
    (h : endWith r x work results s = .next t) :
    t = s ∨ t = stallCommand r s ∨ t = completeCommand (workCells work) results s ∨
      t = busErrorEnd x.errAddrs work s := by
  rcases endWith_cases r x work results s with
    ⟨-, h'⟩ | ⟨-, -, h'⟩ | ⟨-, -, h'⟩ | ⟨-, -, -, -, h'⟩ | ⟨-, -, -, h'⟩ <;>
    rw [h'] at h <;> cases h <;> simp

/-- The end event faults only for a race. -/
theorem endWith_fault {r : Running} {x : Exposed} {work : List WorkUnit} {results : Regs} {s : State}
    {f : Fault} (h : endWith r x work results s = .fault f) : f = .hostRace ∧ r.raced = true := by
  rcases endWith_cases r x work results s with
    ⟨-, h'⟩ | ⟨-, -, h'⟩ | ⟨-, hr, h'⟩ | ⟨-, -, -, -, h'⟩ | ⟨-, -, -, h'⟩ <;>
    rw [h'] at h <;> cases h
  exact ⟨rfl, hr⟩

/-- The end event never refuses. -/
theorem endWith_not_refused (r : Running) (x : Exposed) (work : List WorkUnit) (results : Regs)
    (s : State) (f : Refusal) : endWith r x work results s ≠ .refused f := by
  rcases endWith_cases r x work results s with
    ⟨-, h'⟩ | ⟨-, -, h'⟩ | ⟨-, -, h'⟩ | ⟨-, -, -, -, h'⟩ | ⟨-, -, -, h'⟩ <;> rw [h'] <;> simp

/-! ## The start of a command (`runCommand`) -/

/-- Everything a command can do from its accepted START. -/
theorem runCommand_cases (i : Instr) (check : Option (ErrCode × Word)) (undefined : Option Fault)
    (w : Nat) (work : List WorkUnit) (results : Regs) (s : State) :
    (∃ e, check = some e ∧
      runCommand i check undefined w work results s = .next (raiseError e.1 e.2 s)) ∨
    (∃ f, check = none ∧ undefined = some f ∧
      runCommand i check undefined w work results s = .fault f) ∨
    (check = none ∧ undefined = none ∧ interleaved s = true ∧
      runCommand i check undefined w work results s = .next (beginCommand i s)) ∨
    (check = none ∧ undefined = none ∧ interleaved s = false ∧
      runCommand i check undefined w work results s =
        endWith (Running.start i) (exposed s.params w work) work results (beginCommand i s)) := by
  unfold runCommand
  cases check with
  | some e => exact .inl ⟨e, rfl, rfl⟩
  | none =>
    cases undefined with
    | some f => exact .inr (.inl ⟨f, rfl, rfl, rfl⟩)
    | none => cases h : interleaved s <;> simp

/-- A start-time error is reported and nothing else happens. -/
theorem runCommand_error (i : Instr) (e : ErrCode × Word) (undefined : Option Fault) (w : Nat)
    (work : List WorkUnit) (results : Regs) (s : State) :
    runCommand i (some e) undefined w work results s = .next (raiseError e.1 e.2 s) := rfl

/-- A command that passes its checks and whose accesses all answer completes. -/
theorem runCommand_completes (i : Instr) (w : Nat) (work : List WorkUnit) (results : Regs) (s : State)
    (hi : interleaved s = false) (ha : ∀ u ∈ work, u.answers s.params = true) :
    runCommand i none none w work results s =
      .next (completeCommand (workCells work) results (beginCommand i s)) := by
  simp only [runCommand, hi, Bool.false_eq_true, if_false, exposed_of_answers _ _ _ ha]
  exact endWith_completes _ work results _ rfl rfl

/-! ## Reset (`resetBlock`) and internal steps (`engineTurn`) -/

/-- Without a running command to abandon, a reset sets the registers and nothing else. -/
theorem resetBlock_idle (s : State) (h : s.running = none) : resetBlock s = resetRegisters s := by
  simp [resetBlock, h]

/-- With a running command the host left alone, a reset abandons it. -/
theorem resetBlock_running (s : State) (r : Running) (h : s.running = some r) (hr : r.raced = false) :
    resetBlock s = resetRegisters (abandonWith (workLeft r s) s) := by
  simp [resetBlock, h, hr]

/-- With a running command the host raced with, a reset leaves its write region free. -/
theorem resetBlock_raced (s : State) (r : Running) (h : s.running = some r) (hr : r.raced = true) :
    resetBlock s = resetRegisters (abandonRaced (writeRegions r.cmd s.regs) s) := by
  simp [resetBlock, h, hr]

/-- A reset gives one of three states. -/
theorem resetBlock_cases (s : State) :
    (s.running = none ∧ resetBlock s = resetRegisters s) ∨
      ∃ r, s.running = some r ∧
        (r.raced = false ∧ resetBlock s = resetRegisters (abandonWith (workLeft r s) s) ∨
          r.raced = true ∧
            resetBlock s = resetRegisters (abandonRaced (writeRegions r.cmd s.regs) s)) := by
  cases hr : s.running with
  | none => exact .inl ⟨rfl, resetBlock_idle s hr⟩
  | some r =>
    cases hc : r.raced
    · exact .inr ⟨r, rfl, .inl ⟨hc, resetBlock_running s r hr hc⟩⟩
    · exact .inr ⟨r, rfl, .inr ⟨hc, resetBlock_raced s r hr hc⟩⟩

/-- An internal step waits, advances the hidden state, or ends the command on what it meets. -/
theorem engineTurn_cases (ask : Nat) (r : Running) (s : State) :
    (r.stalled = true ∧ engineTurn ask r s = .next s) ∨
    (r.stalled = false ∧ (turnUnit ask r s).answers s.params = true ∧
      engineTurn ask r s = .next { s with running := some (turnRunning ask r s) }) ∨
    (r.stalled = false ∧ (turnUnit ask r s).answers s.params = false ∧
      engineTurn ask r s =
        endWith r (exposed s.params 1 [turnUnit ask r s]) (workLeft r s) (resultRegs r s) s) := by
  unfold engineTurn
  cases hs : r.stalled <;> cases ha : (turnUnit ask r s).answers s.params <;> simp

/-- `exec` of every command is `runCommand` of its checks, its UNDEFINED cases, its whole work and its
results. -/
theorem exec_eq_runCommand (i : Instr) (s : State) :
    exec i s = runCommand i (startCheck i s) (startUndefined i s) (stepWindow i s.params)
      (workLeft (Running.start i) s) (resultRegs (Running.start i) s) s := by
  cases i <;> rfl

/-! ## A race of the host (`markRace`, `strayAccess`) -/

/-- Marking a race changes nothing, or sets the mark of the running command, which the access touches. -/
theorem markRace_cases (touches : Running → Bool) (s : State) :
    markRace touches s = s ∨
      ∃ r, s.running = some r ∧ touches r = true ∧
        markRace touches s = { s with running := some { r with raced := true } } := by
  unfold markRace
  split
  · exact .inl rfl
  next r h =>
    cases ht : touches r
    · left
      simp [← h]
    · exact .inr ⟨r, h, ht, by simp⟩

/-- An access refused for its form answers with an error and leaves all else, or marks the running command
when it has bytes outside the block. -/
theorem strayAccess_cases (touches : Running → Bool) (q : Region) (s : State) :
    strayAccess touches q s = respond .busError s ∨
      ∃ r, s.running = some r ∧ touches r = true ∧ insideBlock s.params q = false ∧
        strayAccess touches q s =
          respond .busError { s with running := some { r with raced := true } } := by
  unfold strayAccess
  split
  · exact .inl rfl
  next h =>
    obtain hm | ⟨r, hr, ht, hm⟩ := markRace_cases touches s
    · exact .inl (by rw [hm])
    · exact .inr ⟨r, hr, ht, by simpa using h, by rw [hm]⟩

end Sys2Proof.Machine
end

