-- ==== Sys2Proof/Laws/PerInstr.lean ====
section
/-! SUPPORT. The families of statements made per instruction (LAWS.json). -/

namespace Sys2Proof.Laws.LegalWord

/-- The word a command encodes to is legal by 30_encoding R156, has the command's OPCODE in its bits [7:0]
and its free bits at 8 and 9 (R150). -/
def Statement (i : Instr) : Prop :=
  i.wf = true ∧ CommandWord.legal (encode i) = true ∧ opcodeOf (encode i) = i.opcode ∧
    biasEnOf (encode i) = i.biasEn ∧ accClrOf (encode i) = i.accClr

theorem convS8 (bias : Bool) : Statement (.convS8 bias) := by
  cases bias <;> (unfold Statement; decide +kernel)

theorem convS16 (bias : Bool) : Statement (.convS16 bias) := by
  cases bias <;> (unfold Statement; decide +kernel)

theorem dotS8 (clr : Bool) : Statement (.dotS8 clr) := by
  cases clr <;> (unfold Statement; decide +kernel)

theorem dotS16 (clr : Bool) : Statement (.dotS16 clr) := by
  cases clr <;> (unfold Statement; decide +kernel)

theorem rqS8 : Statement .rqS8 := by
  unfold Statement
  decide +kernel

theorem rqS16 : Statement .rqS16 := by
  unfold Statement
  decide +kernel

theorem memcpy : Statement .memcpy := by
  unfold Statement
  decide +kernel

end Sys2Proof.Laws.LegalWord
end

