-- ==== Sys2Proof/Laws/Step.lean ====
section
/-! SUPPORT. What one step does, by the next event and whether a command runs. -/

namespace Sys2Proof.Machine

theorem step_idle (s : State) (hp : s.pending = []) (hr : s.running = none) : step s = .next s := by
  simp [step, nextEvent, hp, hr]

theorem step_end_nil (s : State) (r : Running) (hp : s.pending = []) (hr : s.running = some r) :
    step s = endCommand r s := by
  simp [step, nextEvent, hp, hr]

theorem step_end_host (s : State) (r : Running) (e : HostEvent) (rest : List Input)
    (hp : s.pending = .host e :: rest) (hr : s.running = some r) : step s = endCommand r s := by
  simp [step, nextEvent, hp, hr]

theorem step_host (s : State) (e : HostEvent) (rest : List Input)
    (hp : s.pending = .host e :: rest) (hr : s.running = none) :
    step s = hostEvent e { s with pending := rest } := by
  simp [step, nextEvent, hp, hr]

theorem step_during (s : State) (e : HostEvent) (rest : List Input)
    (hp : s.pending = .during e :: rest) : step s = hostEvent e { s with pending := rest } := by
  cases hr : s.running <;> simp [step, nextEvent, hp, hr]

theorem step_turn_idle (s : State) (ask : Nat) (rest : List Input)
    (hp : s.pending = .turn ask :: rest) (hr : s.running = none) :
    step s = .next { s with pending := rest } := by
  simp [step, nextEvent, hp, hr]

theorem step_turn (s : State) (r : Running) (ask : Nat) (rest : List Input)
    (hp : s.pending = .turn ask :: rest) (hr : s.running = some r) :
    step s = engineTurn ask r { s with pending := rest } := by
  simp [step, nextEvent, hp, hr]

/-- Everything a step can be. -/
theorem step_cases (s : State) :
    (s.pending = [] ∧ s.running = none ∧ step s = .next s) ∨
    (∃ r, s.running = some r ∧ step s = endCommand r s) ∨
    (∃ e rest, (s.pending = .host e :: rest ∧ s.running = none ∨ s.pending = .during e :: rest) ∧
      step s = hostEvent e { s with pending := rest }) ∨
    (∃ ask rest, s.pending = .turn ask :: rest ∧ s.running = none ∧
      step s = .next { s with pending := rest }) ∨
    (∃ ask rest r, s.pending = .turn ask :: rest ∧ s.running = some r ∧
      step s = engineTurn ask r { s with pending := rest }) := by
  obtain hr | ⟨r, hr⟩ : s.running = none ∨ ∃ r, s.running = some r := by
    cases s.running <;> simp
  · obtain hp | ⟨i, rest, hp⟩ : s.pending = [] ∨ ∃ i rest, s.pending = i :: rest := by
      cases s.pending <;> simp
    · exact .inl ⟨hp, hr, step_idle s hp hr⟩
    · cases i with
      | host e => exact .inr (.inr (.inl ⟨e, rest, .inl ⟨hp, hr⟩, step_host s e rest hp hr⟩))
      | during e => exact .inr (.inr (.inl ⟨e, rest, .inr hp, step_during s e rest hp⟩))
      | turn ask => exact .inr (.inr (.inr (.inl ⟨ask, rest, hp, hr, step_turn_idle s ask rest hp hr⟩)))
  · obtain hp | ⟨i, rest, hp⟩ : s.pending = [] ∨ ∃ i rest, s.pending = i :: rest := by
      cases s.pending <;> simp
    · exact .inr (.inl ⟨r, hr, step_end_nil s r hp hr⟩)
    · cases i with
      | host e => exact .inr (.inl ⟨r, hr, step_end_host s r e rest hp hr⟩)
      | during e => exact .inr (.inr (.inl ⟨e, rest, .inr hp, step_during s e rest hp⟩))
      | turn ask =>
        exact .inr (.inr (.inr (.inr ⟨ask, rest, r, hp, hr, step_turn s r ask rest hp hr⟩)))

end Sys2Proof.Machine
end

