-- ==== Sys2Proof/Tests/Slice0.lean ====
section
/-! SUPPORT. Tests. Expected values come from 95_test_vectors.md (the vector is named) or from the rule
named. Then, for every statement with hypotheses, a state that meets them (`witness_…`). -/

set_option Elab.async false

namespace Sys2Proof.Tests

open Sys2Proof Sys2Proof.Machine Sys2Proof.Machine.Claim

/-! ## Helpers -/

/-- A property of the next state of an outcome. -/
def nextHas (o : Host.Outcome State Fault Refusal) (p : State → Bool) : Bool :=
  match o with
  | .next s => p s
  | .fault _ => false
  | .refused _ => false

/-- The outcome is a given fault. -/
def faultsWith (o : Host.Outcome State Fault Refusal) (f : Fault) : Bool :=
  match o with
  | .next _ => false
  | .fault g => g == f
  | .refused _ => false

/-- Bytes at an address. -/
def bytesAt (s : State) (a n : Nat) : List Byte :=
  (List.range n).map fun k => s.mem.read (a + k)

/-- Memory holding a list of bytes at an address. -/
def place (a : Nat) (bytes : List Byte) (m : Memory) : Memory :=
  m.writeCells (bytes.mapIdx fun k b => (a + k, b))

/-- The reset machine with memory and registers. -/
def withRegs (m : Memory) (g : Regs) : State :=
  { State.reset with mem := m, regs := g }

/-- The host's START write is the next event. -/
def starting (w : Word) (s : State) : State := s.withFetchWord 32 w.toNat

/-! ## Well-formedness: each check refuses an ill-formed term -/

theorem smoke_opcode_zero_refused : CommandWord.opcodeLegal 0x00000000#32 = false := by decide
theorem smoke_opcode_eight_refused : CommandWord.opcodeLegal 0x00000008#32 = false := by decide
theorem smoke_reserved_bit_refused : CommandWord.reservedClear 0x80000005#32 = false := by decide
theorem smoke_bias_outside_conv_refused : CommandWord.biasLegal 0x00000103#32 = false := by decide
theorem smoke_clear_outside_dot_refused : CommandWord.clrLegal 0x00000201#32 = false := by decide
theorem smoke_legal_refuses_bias_with_memcpy : CommandWord.legal 0x00000107#32 = false := by decide
theorem smoke_unaligned_base_refused :
    Params.wf { Params.chosen with engineBase := 0x40000080#32 } = false := by decide
theorem smoke_zero_lanes_refused : Params.wf { Params.chosen with vl16 := 0#8 } = false := by decide
theorem smoke_chosen_params_accepted : Params.wf Params.chosen = true := by decide

/-! ## Decoding: every constructor by a word written out from R150's layout (r…r C B oooooooo) -/

theorem decode_convS8 : decode 0b00000000000000000000000000000001#32 = .ok (.convS8 false) := by
  decide +kernel
theorem decode_convS8_bias : decode 0b00000000000000000000000100000001#32 = .ok (.convS8 true) := by
  decide +kernel
theorem decode_convS16 : decode 0b00000000000000000000000000000010#32 = .ok (.convS16 false) := by
  decide +kernel
theorem decode_convS16_bias : decode 0b00000000000000000000000100000010#32 = .ok (.convS16 true) := by
  decide +kernel
theorem decode_dotS8 : decode 0b00000000000000000000000000000011#32 = .ok (.dotS8 false) := by
  decide +kernel
theorem decode_dotS8_clr : decode 0b00000000000000000000001000000011#32 = .ok (.dotS8 true) := by
  decide +kernel
theorem decode_dotS16 : decode 0b00000000000000000000000000000100#32 = .ok (.dotS16 false) := by
  decide +kernel
theorem decode_dotS16_clr : decode 0b00000000000000000000001000000100#32 = .ok (.dotS16 true) := by
  decide +kernel
theorem decode_rqS8 : decode 0b00000000000000000000000000000101#32 = .ok .rqS8 := by decide +kernel
theorem decode_rqS16 : decode 0b00000000000000000000000000000110#32 = .ok .rqS16 := by decide +kernel
theorem decode_memcpy : decode 0b00000000000000000000000000000111#32 = .ok .memcpy := by decide +kernel
/-- 95 section 2: 0x303 has BIAS_EN with DOT. -/
theorem decode_refuses_0x303 : decode 0x00000303#32 = .error .biasEn := by decide +kernel
/-- 95 section 2: 0x401 has reserved bit 10. -/
theorem decode_refuses_0x401 : decode 0x00000401#32 = .error .reservedBit := by decide +kernel
/-- 95 section 2. -/
theorem decode_refuses_0xFF : decode 0x000000FF#32 = .error .opcode := by decide +kernel
theorem table_word_memcpy : decodeTableWord 32 7 = some .memcpy := by decide +kernel
theorem table_word_illegal : decodeTableWord 32 0x107 = none := by decide +kernel

/-! ## Convolutions -/

/-- V-CONV-1 / P3: 4×4 input of 10, 3×3 filter of 2, pad 1, identity rescale. -/
def convP3 : State :=
  withRegs
    (place 0x2000 (List.replicate 16 10#8) (place 0x2100 (List.replicate 9 2#8)
      (place 0x2200 [0x00#8, 0x00#8, 0x00#8, 0x40#8, 0x01#8, 0x00#8, 0x00#8, 0x00#8] [])))
    { Regs.reset with
      cmd := 0x00000001#32
      inAddr := 0x2000#32
      fltAddr := 0x2100#32
      outAddr := 0x2300#32
      multAddr := 0x2200#32
      shiftAddr := 0x2204#32
      inN := 1#16
      inH := 4#16
      inW := 4#16
      inC := 1#16
      fltO := 1#16
      fltKH := 3#16
      fltKW := 3#16
      fltI := 1#16
      outN := 1#16
      outH := 4#16
      outW := 4#16
      outC := 1#16
      padH := 1#16
      padW := 1#16
      actMin := 0xFFFFFF80#32
      actMax := 0x0000007F#32 }

/-- V-CONV-1. -/
theorem test_convS8_scenario :
    nextHas (step (starting 0x00000001#32 convP3)) (fun t =>
      bytesAt t 0x2300 16 == [0x50#8, 0x78#8, 0x78#8, 0x50#8, 0x78#8, 0x7F#8, 0x7F#8, 0x78#8,
        0x78#8, 0x7F#8, 0x7F#8, 0x78#8, 0x50#8, 0x78#8, 0x78#8, 0x50#8] &&
      statusWord t.status == 0x00000002#32) = true := by decide +kernel

/-- V-CONV-6: the bias add wraps at 32 bits, the clamp gives -128. -/
def convV6 : State :=
  withRegs
    (place 0x5000 [127#8] (place 0x5010 [127#8] (place 0x5020 [0xFF#8, 0xFF#8, 0xFF#8, 0x7F#8]
      (place 0x5030 [0x00#8, 0x00#8, 0x00#8, 0x40#8, 0x01#8] []))))
    { Regs.reset with
      cmd := 0x00000101#32
      inAddr := 0x5000#32
      fltAddr := 0x5010#32
      biasAddr := 0x5020#32
      outAddr := 0x5040#32
      multAddr := 0x5030#32
      shiftAddr := 0x5034#32
      inN := 1#16
      inH := 1#16
      inW := 1#16
      inC := 1#16
      fltO := 1#16
      fltKH := 1#16
      fltKW := 1#16
      fltI := 1#16
      outN := 1#16
      outH := 1#16
      outW := 1#16
      outC := 1#16
      actMin := 0xFFFFFF80#32
      actMax := 0x0000007F#32 }

theorem test_convS8_bias_wraps :
    nextHas (exec (.convS8 true) convV6) (fun t => bytesAt t 0x5040 1 == [0x80#8]) = true := by
  decide +kernel

/-- V-CONV-4: input [1000, -2000], filter [3], int64 bias [5]; outputs 3005, -5995. -/
def convV4 : State :=
  withRegs
    (place 0x5000 [0xE8#8, 0x03#8, 0x30#8, 0xF8#8] (place 0x5010 [3#8] (place 0x5020 [5#8]
      (place 0x5030 [0x00#8, 0x00#8, 0x00#8, 0x40#8, 0x01#8] []))))
    { Regs.reset with
      cmd := 0x00000102#32
      inAddr := 0x5000#32
      fltAddr := 0x5010#32
      biasAddr := 0x5020#32
      outAddr := 0x5041#32
      multAddr := 0x5030#32
      shiftAddr := 0x5034#32
      inN := 1#16
      inH := 1#16
      inW := 2#16
      inC := 1#16
      fltO := 1#16
      fltKH := 1#16
      fltKW := 1#16
      fltI := 1#16
      outN := 1#16
      outH := 1#16
      outW := 2#16
      outC := 1#16
      actMin := 0xFFFF8000#32
      actMax := 0x00007FFF#32 }

theorem test_convS16_bias :
    nextHas (exec (.convS16 true) convV4) (fun t =>
      bytesAt t 0x5041 4 == [0xBD#8, 0x0B#8, 0x95#8, 0xE8#8]) = true := by decide +kernel

/-- V-CONV-9: an accumulator beyond int32 is requantized exactly. -/
def convV9 : State :=
  { convV4 with
    mem := place 0x5000 [0xFF#8, 0x7F#8] (place 0x5010 [127#8]
      (place 0x5020 [0#8, 0#8, 0#8, 0#8, 0#8, 1#8, 0#8, 0#8]
        (place 0x5030 [0x00#8, 0x00#8, 0x00#8, 0x40#8, 0xD9#8, 0xFF#8, 0xFF#8, 0xFF#8] [])))
    regs := { convV4.regs with inW := 1#16, outW := 1#16 } }

theorem test_convS16_wide_accumulator :
    nextHas (exec (.convS16 true) convV9) (fun t => bytesAt t 0x5041 2 == [0x01#8, 0x00#8]) = true := by
  decide +kernel

/-! ## Dot products -/

/-- V-DOT-4: -10 + (-128 × -1 + 127 × 2). -/
def dotV4 : State :=
  withRegs (place 0x1000 [0x80#8, 0x7F#8] (place 0x1100 [0xFF#8, 0x02#8] []))
    { Regs.reset with
      cmd := 0x00000003#32
      accLo := 0xFFFFFFF6#32
      dotA := 0x1000#32
      dotB := 0x1100#32
      dotLen := 2#32 }

theorem test_dotS8_accumulates :
    nextHas (exec (.dotS8 false) dotV4) (fun t =>
      accPair t.regs == 0x0000000000000174#64 && resultPair t.regs == 0x0000000000000174#64) = true := by
  decide +kernel

/-- V-DOT-3: the 32-bit sum wraps and ACC_HI is its sign extension. -/
theorem test_dotS8_wraps :
    nextHas (exec (.dotS8 false) (withRegs (place 0x1000 [1#8] (place 0x1100 [1#8] []))
      { dotV4.regs with accLo := 0x7FFFFFFF#32, dotLen := 1#32 })) (fun t =>
      accPair t.regs == 0xFFFFFFFF80000000#64) = true := by decide +kernel

/-- V-DOT-5. -/
def dotV5 : State :=
  withRegs (place 0x1001 [0x00#8, 0x80#8, 0xFF#8, 0x7F#8] (place 0x1100 [0x80#8, 0x7F#8] []))
    { Regs.reset with
      cmd := 0x00000204#32
      inputOffset := 77#32
      accLo := 9#32
      dotA := 0x1001#32
      dotB := 0x1100#32
      dotLen := 2#32 }

theorem test_dotS16_clear :
    nextHas (exec (.dotS16 true) dotV5) (fun t => accPair t.regs == 0x00000000007F7F81#64) = true := by
  decide +kernel

/-- V-DOT-6: the offset is ignored, the accumulator is 64 bits wide. -/
theorem test_dotS16_accumulates :
    nextHas (exec (.dotS16 false) (withRegs (place 0x1001 [100#8, 0#8] (place 0x1100 [2#8] []))
      { dotV5.regs with accLo := 0xFFFFFF00#32, accHi := 0xFFFFFFFF#32, dotLen := 1#32 })) (fun t =>
      resultPair t.regs == 0xFFFFFFFFFFFFFFC8#64) = true := by decide +kernel

/-! ## Requantization -/

/-- V-RQ-3 and V-RQ-8's registers. -/
def rqState (lo hi m s off : Word) : State :=
  withRegs []
    { Regs.reset with
      cmd := 0x00000005#32
      accLo := lo
      accHi := hi
      reqMult := m
      reqShift := s
      outputOffset := off
      actMin := 0xFFFFFF80#32
      actMax := 0x0000007F#32 }

/-- V-RQ-3: -1.5 rounds to -1. -/
theorem test_rqS8_tie_up :
    nextHas (exec .rqS8 (rqState 0xFFFFFFFD#32 0#32 0x40000000#32 0#32 0#32)) (fun t =>
      resultPair t.regs == 0xFFFFFFFFFFFFFFFF#64) = true := by decide +kernel

/-- V-RQ-8: 1000 clamps to 127. -/
theorem test_rqS8_clamps :
    nextHas (exec .rqS8 (rqState 1000#32 0#32 0x40000000#32 1#32 0#32)) (fun t =>
      resultPair t.regs == 0x000000000000007F#64) = true := by decide +kernel

/-- V-RQ-18: x = -2^63, M = -2^31, s = -64 give T = 95 and RQ = 1. -/
theorem test_rqS16_largest_product :
    nextHas (exec .rqS16 (rqState 0#32 0x80000000#32 0x80000000#32 0xFFFFFFC0#32 0#32)) (fun t =>
      resultPair t.regs == 0x0000000000000001#64) = true := by decide +kernel

/-- V-RQ-10's shift direction and V-RQ-19's ignored offset: 2^40 at s = -9 clamps to ACT_MAX. -/
theorem test_rqS16_offset_ignored :
    nextHas (exec .rqS16 (rqState 100#32 0#32 0x40000000#32 1#32 100#32)) (fun t =>
      resultPair t.regs == 100#64) = true := by decide +kernel

/-! ## Copies -/

/-- V-CPY-2. -/
def copyV2 : State :=
  withRegs (place 0x1001 [0x11#8, 0x22#8, 0x33#8, 0x44#8, 0x55#8, 0x66#8, 0x77#8] [])
    { Regs.reset with
      cmd := 0x00000007#32
      cpySrc := 0x1001#32
      cpyDst := 0x2003#32
      cpyLen := 7#32 }

theorem test_memcpy_unaligned :
    nextHas (exec .memcpy copyV2) (fun t =>
      bytesAt t 0x2003 7 == bytesAt copyV2 0x1001 7 && bytesAt t 0x1001 7 == bytesAt copyV2 0x1001 7 &&
        resultPair t.regs == 0x0000000000002003#64) = true := by decide +kernel

/-- V-CPY-6: overlapping regions fault. -/
theorem test_memcpy_overlap :
    faultsWith (exec .memcpy (withRegs []
      { Regs.reset with cpySrc := 0x1000#32, cpyDst := 0x1002#32, cpyLen := 4#32 })) .copyOverlap = true := by
  decide +kernel

/-! ## Errors, status, interrupt, reset -/

/-- V-ERR-1 with ERR_IE: a START right after reset is ILLEGAL_CMD, irq = 1 (V-IRQ-2). -/
theorem test_start_after_reset :
    nextHas (step { State.reset with pending := [.host (writeEvent State.reset .ctrl 0x5#32)] }) (fun t =>
      readReg .status t == 0x00000104#32 && t.irq && readReg .ctrl t == 0x00000004#32) = true := by
  decide +kernel

/-- V-CPY-5: ADDR_RANGE at the destination. -/
theorem test_addr_range :
    nextHas (step (starting 7#32 (withRegs []
      { Regs.reset with cpySrc := 0x100#32, cpyDst := 0xFFFFFFFD#32, cpyLen := 4#32 }))) (fun t =>
      readReg .status t == 0x00000704#32 && readReg .errAddr t == 0xFFFFFFFD#32) = true := by decide +kernel

/-- V-ERR-10: CLAMP_RANGE is reported before PARAM_RANGE and CIN_MISMATCH. -/
theorem test_check_priority :
    nextHas (step (starting 1#32 { convP3 with
      regs := { convP3.regs with actMax := 128#32, strideH := 0#16, fltI := 7#16 } })) (fun t =>
      readReg .status t == 0x00000204#32 && readReg .errAddr t == 0#32) = true := by decide +kernel

/-- V-ERR-14: the access at 0x1004 gets a bus error response. -/
def copyErr : State :=
  { withRegs (place 0x1000 [1#8, 2#8, 3#8, 4#8, 5#8, 6#8, 7#8, 8#8] [])
      { Regs.reset with cpySrc := 0x1000#32, cpyDst := 0x2000#32, cpyLen := 8#32 } with
    params := { Params.chosen with busMap := [⟨0x1004, 1, .errorOnRead⟩] } }

theorem test_bus_error :
    nextHas (step (starting 7#32 copyErr)) (fun t =>
      readReg .status t == 0x00000804#32 && readReg .errAddr t == 0x00001004#32 &&
        resultPair t.regs == 0#64) = true := by decide +kernel

/-- A running copy, three bytes done: what V-BUSY-1 to V-BUSY-3 start from. -/
def copyRunning : State :=
  { copyV2 with
    status := { Status.reset with busy := true }
    running := some { Running.start .memcpy with
      chan := 3
      grant := 3
      writes := [(0x2003, 0x11#8), (0x2004, 0x22#8), (0x2005, 0x33#8)] } }

/-- V-BUSY-1: a write to CPY_LEN while running is dropped and sets IGN. -/
theorem test_write_while_busy :
    nextHas (step { copyRunning with pending := [.during (writeEvent copyRunning .cpyLen 5#32)] }) (fun t =>
      readReg .cpyLen t == 7#32 && readReg .status t == 0x00000009#32) = true := by decide +kernel

/-- The end of a copy that stands at byte 3 is the end of the whole copy (43_memcpy R314). -/
theorem test_end_from_position :
    nextHas (step copyRunning) (fun t =>
      bytesAt t 0x2003 7 == bytesAt copyV2 0x1001 7 && readReg .status t == 0x00000002#32) = true := by
  decide +kernel

/-- One step of a copy with a grant of 2 (43_memcpy R312). -/
theorem test_copy_turn :
    nextHas (step { copyRunning with pending := [.turn 2] }) (fun t =>
      t.running.map (fun r => (r.chan, r.grant, r.writes.length)) == some (5, 2, 5) && t.mem == copyV2.mem) =
      true := by decide +kernel

/-- V-BUSY-3: SRST while running resets every register. -/
theorem test_soft_reset_while_running :
    nextHas (step { copyRunning with pending := [.during (writeEvent copyRunning .ctrl 0x80000000#32)] })
      (fun t => readReg .status t == 0#32 && readReg .cpyLen t == 0#32 && readReg .strideH t == 1#32) =
      true := by decide +kernel

/-- 95 section 8: CAPS with VL8 = 16, VL16 = 8, VLB = 16 reads 0x0010_0810. -/
theorem test_caps_after_reset : readReg .caps State.reset = 0x00100810#32 := by decide +kernel

/-- 42_requant R283: a shift far outside the usual range is evaluated and saturates before the clamp. -/
theorem test_rqS8_extreme_shift :
    nextHas (exec .rqS8 (rqState 0xFFFFFFFF#32 0#32 1#32 0x7FFFFFFF#32 0#32)) (fun t =>
      resultPair t.regs == 0xFFFFFFFFFFFFFF80#64) = true := by decide +kernel

/-- 30_encoding R160: case and spaces. -/
theorem test_assembler : assembleCommand "DOT.s16   CLR" = some (.dotS16 true) := by decide +kernel

/-! ## Witnesses: states that meet the hypotheses of the statements -/

/-- The host's write of a register is the next event. -/
def writing (s : State) (r : Reg) (w : Word) : State :=
  { s with pending := [.host (writeEvent s r w)] }

theorem witness_StepRunsTheDecodedCommand :
    let s := writing dotV4 .ctrl 1#32
    s.params.wf = true ∧ Delivered (writeEvent s .ctrl 1#32) s [] ∧ s.status.busy = false ∧
      (1#32).getLsbD 31 = false ∧ (1#32).getLsbD 0 = true ∧ decode s.regs.cmd = .ok (.dotS8 false) := by
  decide +kernel

theorem witness_StartWithIllegalWordIsRejected :
    let s := writing State.reset .ctrl 7#32
    s.params.wf = true ∧ Delivered (writeEvent s .ctrl 7#32) s [] ∧ s.running = none ∧
      s.status.busy = false ∧ (7#32).getLsbD 31 = false ∧ (7#32).getLsbD 0 = true ∧
      decode s.regs.cmd = .error .opcode ∧ IllegalWord s.regs.cmd := by decide +kernel

theorem witness_CtrlWriteWithoutStartStoresTheEnables :
    let s := writing State.reset .ctrl 6#32
    s.params.wf = true ∧ Delivered (writeEvent s .ctrl 6#32) s [] ∧ s.status.busy = false ∧
      (6#32).getLsbD 31 = false ∧ (6#32).getLsbD 0 = false := by decide +kernel

/-- A host write while the copy runs. -/
def busyWriting (r : Reg) (w : Word) : State :=
  { copyRunning with pending := [.during (writeEvent copyRunning r w)] }

theorem witness_RegisterWriteWhileBusyIsDropped :
    let s := busyWriting .ctrl 1#32
    s.params.wf = true ∧ Delivered (writeEvent s .ctrl 1#32) s [] ∧ s.status.busy = true ∧
      Reg.ctrl ≠ .status ∧ ¬ (Reg.ctrl = .ctrl ∧ (1#32).getLsbD 31 = true) := by decide +kernel

theorem witness_StatusWriteClearsByOnes :
    let s := busyWriting .status 0xE#32
    s.params.wf = true ∧ Delivered (writeEvent s .status 0xE#32) s [] := by decide +kernel

/-- A host read while the copy runs. -/
def busyReading (r : Reg) : State :=
  { copyRunning with pending := [.during (readEvent copyRunning r)] }

theorem witness_RegisterReadHasNoSideEffect_defined :
    let s := busyReading .cpyLen
    s.params.wf = true ∧ Delivered (readEvent s .cpyLen) s [] ∧
      ¬ (s.status.busy = true ∧ Reg.cpyLen ∈ [Reg.accLo, .accHi, .resultLo, .resultHi, .errAddr]) := by
  decide +kernel

theorem witness_RegisterReadHasNoSideEffect_open :
    let s := busyReading .errAddr
    s.params.wf = true ∧ Delivered (readEvent s .errAddr) s [] ∧ s.status.busy = true := by decide +kernel

theorem witness_ReservedOffsetsAndBitsReadZero_read :
    let e : HostEvent := .read (State.reset.params.engineBase + BitVec.ofNat 32 0x0FC) .w32
    State.reset.params.wf = true ∧ 0x0FC ∈ reservedOffsets ∧
      Delivered e { State.reset with pending := [.host e] } [] := by decide +kernel

theorem witness_ReservedOffsetsAndBitsReadZero_write :
    let e : HostEvent := .write (State.reset.params.engineBase + BitVec.ofNat 32 0x038) .w32 5#64
    State.reset.params.wf = true ∧ 0x038 ∈ reservedOffsets ∧
      Delivered e { State.reset with pending := [.host e] } [] := by decide +kernel

theorem witness_NarrowOrMisalignedAccessIsAnError_narrow :
    let e : HostEvent := .write 0x400000FF#32 .w8 5#64
    let s : State := { State.reset with pending := [.host e] }
    s.params.wf = true ∧ s.params.engineBase.toNat < (0x400000FF#32).toNat + Width.w8.bytes ∧
      (0x400000FF#32).toNat < s.params.engineBase.toNat + 0x100 ∧
      (Width.w8 ≠ .w32 ∨ (0x400000FF#32).toNat % 4 ≠ 0) ∧
      (Delivered (.read 0x400000FF#32 .w8) s [] ∨ Delivered (.write 0x400000FF#32 .w8 5#64) s []) := by
  decide +kernel

theorem witness_NarrowOrMisalignedAccessIsAnError_misaligned :
    let e : HostEvent := .read 0x40000001#32 .w32
    let s : State := { State.reset with pending := [.host e] }
    s.params.wf = true ∧ s.params.engineBase.toNat < (0x40000001#32).toNat + Width.w32.bytes ∧
      (0x40000001#32).toNat < s.params.engineBase.toNat + 0x100 ∧
      (Width.w32 ≠ .w32 ∨ (0x40000001#32).toNat % 4 ≠ 0) ∧
      (Delivered (.read 0x40000001#32 .w32) s [] ∨ Delivered (.write 0x40000001#32 .w32 5#64) s []) := by
  decide +kernel

/-- The access runs beyond the block into the destination of the running copy. -/
theorem witness_NarrowOrMisalignedAccessIsAnError_race :
    let e : HostEvent := .write 0x400000FC#32 .w64 5#64
    let s : State := { copyRunning with
      regs := { copyRunning.regs with cpyDst := 0x40000100#32 }
      pending := [.during e] }
    s.params.wf = true ∧ s.params.engineBase.toNat < (0x400000FC#32).toNat + Width.w64.bytes ∧
      (0x400000FC#32).toNat < s.params.engineBase.toNat + 0x100 ∧ Width.w64 ≠ .w32 ∧
      Delivered (.write 0x400000FC#32 .w64 5#64) s [] ∧
      nextHas (step s) (fun t => t.response == .busError && t.running.any (·.raced)) = true := by
  decide +kernel

/-- The load begins one byte below the block, in the destination of the running copy. -/
theorem witness_NarrowOrMisalignedAccessIsAnError_below :
    let e : HostEvent := .read 0x3FFFFFFF#32 .w16
    let s : State := { copyRunning with
      regs := { copyRunning.regs with cpyDst := 0x3FFFFFF9#32 }
      pending := [.during e] }
    s.params.wf = true ∧ s.params.engineBase.toNat < (0x3FFFFFFF#32).toNat + Width.w16.bytes ∧
      (0x3FFFFFFF#32).toNat < s.params.engineBase.toNat + 0x100 ∧ Width.w16 ≠ .w32 ∧
      Delivered (.read 0x3FFFFFFF#32 .w16) s [] ∧
      nextHas (step s) (fun t => t.response == .busError && t.running.any (·.raced)) = true := by
  decide +kernel

theorem witness_RegisterWriteStoresThatRegister_half :
    let s := writing State.reset .padW 0xFFFF0003#32
    s.params.wf = true ∧ Delivered (writeEvent s .padW 0xFFFF0003#32) s [] ∧ s.status.busy = false ∧
      Reg.padW ≠ .ctrl ∧ Reg.padW ≠ .status ∧ Reg.padW ∈ halfRegs := by decide +kernel

theorem witness_RegisterWriteStoresThatRegister_word :
    let s := writing State.reset .cpyLen 0xFFFFFFFF#32
    s.params.wf = true ∧ Delivered (writeEvent s .cpyLen 0xFFFFFFFF#32) s [] ∧ s.status.busy = false ∧
      Reg.cpyLen ≠ .ctrl ∧ Reg.cpyLen ≠ .status ∧ Reg.cpyLen ∈ wordRegs := by decide +kernel

theorem witness_RegisterWriteStoresThatRegister_readOnly :
    let s := writing State.reset .id 1#32
    s.params.wf = true ∧ Delivered (writeEvent s .id 1#32) s [] ∧ s.status.busy = false ∧
      Reg.id ≠ .ctrl ∧ Reg.id ≠ .status ∧ Reg.id ∈ readOnlyRegs := by decide +kernel

theorem witness_ResetRestoresEveryRegister_running :
    let s := busyWriting .ctrl 0x80000000#32
    s.params.wf = true ∧ s.mem.wf = true ∧ s.runningGood = true ∧
      (writeEvent s .ctrl 0x80000000#32 = .hardReset ∨
        (writeEvent s .ctrl 0x80000000#32 = writeEvent s .ctrl 0x80000000#32 ∧
          (0x80000000#32).getLsbD 31 = true)) ∧
      Delivered (writeEvent s .ctrl 0x80000000#32) s [] ∧ s.running.all (fun r => !r.raced) = true := by
  decide +kernel

theorem witness_ResetRestoresEveryRegister_hard :
    let s : State := { copyV2 with pending := [.host .hardReset] }
    s.params.wf = true ∧ s.mem.wf = true ∧ s.runningGood = true ∧ Delivered .hardReset s [] ∧
      s.running = none := by decide +kernel

theorem witness_DotS8Result :
    InSpace (.dotS8 false) dotV4 ∧ Ordinary (.dotS8 false) dotV4 ∧ Answers (.dotS8 false) dotV4 ∧
      interleaved dotV4 = false := by decide +kernel

theorem witness_DotS16Result :
    InSpace (.dotS16 true) dotV5 ∧ Ordinary (.dotS16 true) dotV5 ∧ Answers (.dotS16 true) dotV5 ∧
      interleaved dotV5 = false := by decide +kernel

theorem witness_RqS8Result :
    let s := rqState 1000#32 0#32 0x40000000#32 1#32 0#32
    ClampLegal (-128) 127 s.regs ∧ interleaved s = false := by decide +kernel

theorem witness_RqS16Result :
    let s := rqState 0#32 0x100#32 0x40000000#32 0xFFFFFFF7#32 0#32
    ClampLegal (-32768) 32767 s.regs ∧ interleaved s = false := by decide +kernel

theorem witness_MemcpyResult :
    InSpace .memcpy copyV2 ∧ Ordinary .memcpy copyV2 ∧ Answers .memcpy copyV2 ∧
      NotAliased .memcpy copyV2 ∧ interleaved copyV2 = false ∧ copyV2.mem.wf = true := by decide +kernel

theorem witness_ConvS8Result :
    ClampLegal (-128) 127 convP3.regs ∧ GeometryLegal convP3.regs ∧ ShapesAgree convP3.regs ∧
      InSpace (.convS8 false) convP3 ∧ NotAliased (.convS8 false) convP3 ∧
      Ordinary (.convS8 false) convP3 ∧
      convP3.regs.fltKH.toNat * convP3.regs.fltKW.toNat * convP3.regs.inC.toNat < 65536 ∧
      Answers (.convS8 false) convP3 ∧ interleaved convP3 = false ∧ convP3.mem.wf = true := by
  decide +kernel

theorem witness_ConvS16Result :
    ClampLegal (-32768) 32767 convV4.regs ∧ GeometryLegal convV4.regs ∧ ShapesAgree convV4.regs ∧
      InSpace (.convS16 true) convV4 ∧ NotAliased (.convS16 true) convV4 ∧
      Ordinary (.convS16 true) convV4 ∧ Answers (.convS16 true) convV4 ∧ interleaved convV4 = false ∧
      convV4.mem.wf = true := by decide +kernel

theorem witness_StartErrorIsPrecise :
    let s := writing (withRegs [] { Regs.reset with
      cmd := 0x00000203#32
      dotA := 0xFFFFFFFF#32
      dotLen := 2#32 }) .ctrl 5#32
    s.params.wf = true ∧ Delivered (writeEvent s .ctrl 5#32) s [] ∧ s.running = none ∧
      s.status.busy = false ∧ (5#32).getLsbD 31 = false ∧ (5#32).getLsbD 0 = true ∧
      decode s.regs.cmd = .ok (.dotS8 true) ∧
      startCheck (.dotS8 true) s = some (.addrRange, 0xFFFFFFFF#32) := by decide +kernel

/-- V-ERR-9: IN ends at 2^32 + 16; the other regions are inside. -/
theorem witness_ConvChecksInOrder_range :
    let g := { convP3.regs with inC := 2#16, fltI := 2#16, inAddr := 0xFFFFFFF0#32 }
    ClampLegal (-128) 127 g ∧ GeometryLegal g ∧ ShapesAgree g ∧
      2 ^ 32 < g.inAddr.toNat + 1 * g.inN.toNat * g.inH.toNat * g.inW.toNat * g.inC.toNat := by
  decide +kernel

theorem witness_ConvChecksInOrder_clamp : ¬ ClampLegal (-128) 127 { convP3.regs with actMax := 128#32 } := by
  decide +kernel

theorem witness_ConvChecksInOrder_geometry :
    let g := { convP3.regs with strideW := 0#16 }
    ClampLegal (-128) 127 g ∧ ¬ GeometryLegal g := by decide +kernel

theorem witness_ConvChecksInOrder_shapes :
    let g := convP3.regs
    ClampLegal (-128) 127 g ∧ GeometryLegal g ∧ g.inC = g.fltI ∧ g.fltO = g.outC ∧
      { g with outN := 2#16 }.outN ≠ g.inN ∧ { g with outC := 2#16 }.outC ≠ g.fltO ∧
      { g with fltI := 2#16 }.fltI ≠ g.inC := by decide +kernel

theorem witness_ConvChecksInOrder_passes : startCheck (.convS8 false) convP3 = none := by decide +kernel

theorem witness_DotRqCopyChecks :
    let g := { Regs.reset with dotA := 0xFFFFFFFE#32, dotB := 0xFFFFFFFF#32, dotLen := 2#32 }
    g.dotA.toNat + 1 * g.dotLen.toNat ≤ 2 ^ 32 ∧ 2 ^ 32 < g.dotB.toNat + g.dotLen.toNat ∧
      2 ^ 32 < g.dotA.toNat + 2 * g.dotLen.toNat ∧ ClampLegal (-128) 127 g ∧
      ¬ ClampLegal (-128) 127 { g with actMin := 1#32 } := by decide +kernel

theorem witness_DotRqCopyChecks_copy :
    let g := { Regs.reset with cpySrc := 0xFFFFFFFC#32, cpyDst := 0xFFFFFFFD#32, cpyLen := 4#32 }
    g.cpySrc.toNat + g.cpyLen.toNat ≤ 2 ^ 32 ∧ 2 ^ 32 < g.cpyDst.toNat + g.cpyLen.toNat := by
  decide +kernel

theorem witness_BusErrorEndsTheCommand :
    startCheck .memcpy copyErr = none ∧ startUndefined .memcpy copyErr = none ∧
      interleaved copyErr = false ∧ copyErr.mem.wf = true ∧
      workErrAddrs copyErr.params (workLeft (Running.start .memcpy) copyErr) ≠ [] ∧
      workHangs copyErr.params (workLeft (Running.start .memcpy) copyErr) = false := by decide +kernel

theorem witness_UndefinedCommandsFault_depth :
    let s := { convP3 with
      regs := { convP3.regs with
        inC := 0x4000#16
        fltI := 0x4000#16
        fltKH := 2#16
        fltKW := 2#16 } }
    startCheck (.convS8 false) s = none ∧
      65536 ≤ s.regs.fltKH.toNat * s.regs.fltKW.toNat * s.regs.inC.toNat := by decide +kernel

theorem witness_UndefinedCommandsFault_alias :
    let s := { convV4 with regs := { convV4.regs with outAddr := 0x5003#32 } }
    startCheck (.convS16 true) s = none ∧ ¬ NotAliased (.convS16 true) s := by decide +kernel

theorem witness_UndefinedCommandsFault_overlap :
    let s := withRegs [] { Regs.reset with cpySrc := 0x1000#32, cpyDst := 0x1000#32, cpyLen := 1#32 }
    startCheck .memcpy s = none ∧ 0 < s.regs.cpyLen.toNat ∧
      s.regs.cpySrc.toNat < s.regs.cpyDst.toNat + s.regs.cpyLen.toNat ∧
      s.regs.cpyDst.toNat < s.regs.cpySrc.toNat + s.regs.cpyLen.toNat := by decide +kernel

theorem witness_UndefinedCommandsFault_device :
    let s := { dotV4 with params := { Params.chosen with busMap := [⟨0x1100, 4, .device⟩] } }
    startCheck (.dotS8 false) s = none ∧ ¬ Ordinary (.dotS8 false) s := by decide +kernel

theorem witness_StepStopsOnlyWhereTheSpecIsUndefined_fault :
    faultsWith (step (starting 7#32 (withRegs []
      { Regs.reset with cpySrc := 0x1000#32, cpyDst := 0x1000#32, cpyLen := 1#32 }))) .copyOverlap =
      true := by decide +kernel

theorem witness_StepStopsOnlyWhereTheSpecIsUndefined_race :
    let s := { copyRunning with running := copyRunning.running.map fun r => { r with raced := true } }
    faultsWith (step s) .hostRace = true := by decide +kernel

theorem witness_StepStopsOnlyWhereTheSpecIsUndefined_refusal :
    let s : State := { State.reset with
      params := { Params.chosen with busMap := [⟨0x9003, 1, .silent⟩] }
      pending := [.host (.read 0x9000#32 .w32)] }
    ¬ HostClear [.device, .silent] s 0x9000#32 .w32 ∧
    (match step s with
      | .refused r => r == .hostDeviceAccess
      | .next _ => false
      | .fault _ => false) = true := by decide +kernel

/-- For `CommandsChangeOnlyTheirRegisters`, `CommandsStoreOnlyInTheirWriteRegion` and `EngineStoresReachTheHost`: commands that give
a next state. -/
theorem witness_commands_give_next_states :
    nextHas (exec .memcpy copyV2) (fun _ => true) = true ∧
      nextHas (exec (.convS16 true) convV4) (fun _ => true) = true ∧
      nextHas (exec (.dotS8 false) dotV4) (fun _ => true) = true ∧ copyV2.params.coherent = true := by
  decide +kernel

/-- The same two statements of a running command: its end event, an internal step, and one that meets an
error response. -/
theorem witness_running_commands_give_next_states :
    let e := { copyErr with status := { Status.reset with busy := true }, running := some (Running.start .memcpy) }
    copyRunning.running.isSome = true ∧ copyRunning.runningGood = true ∧ copyRunning.mem.wf = true ∧
      copyRunning.pending = [] ∧ copyRunning.status.done = false ∧
      nextHas (step copyRunning) (fun t => t.status.done) = true ∧
      nextHas (step { copyRunning with pending := [.turn 2] }) (fun t => t.status.busy) = true ∧
      { e with regs := { e.regs with cmd := 7#32 } }.runningGood = true ∧
      nextHas (step { e with pending := [.turn 8] }) (fun t => t.status.err && t.pending == []) = true := by
  decide +kernel

theorem witness_CommandsAccessOnlyTheirRegions :
    startCheck (.convS16 true) convV4 = none ∧
      (workLeft (Running.start (.convS16 true)) convV4).length = 3 := by decide +kernel

theorem witness_GrantsAreExactlyTheLegalLengths :
    (1 : Nat) ≤ 5 ∧ (1 : Nat) ≤ 255 ∧ (255 : Nat) ≤ min 300 255 ∧ granted 255 300 255 = 255 := by decide

theorem witness_InternalStepsNeverChangeTheOutcome :
    copyRunning.running = some { Running.start .memcpy with
        chan := 3
        grant := 3
        writes := [(0x2003, 0x11#8), (0x2004, 0x22#8), (0x2005, 0x33#8)] } ∧
      workHangs copyRunning.params (workLeft { Running.start .memcpy with chan := 3 } copyRunning) = false ∧
      nextHas (step { copyRunning with pending := [.turn 2] }) (fun t => t.running.isSome) = true := by
  decide +kernel

theorem witness_EveryGrantSequenceGivesTheSameResult :
    let s := { dotV4 with pending := [Input.turn 1, .turn 7] }
    startCheck (.dotS8 false) s = none ∧ startUndefined (.dotS8 false) s = none ∧
      Answers (.dotS8 false) s ∧ s.pending = [1, 7].map Input.turn := by decide +kernel

/-- A START whose next event is a host event while the command runs. -/
theorem witness_EveryGrantSequenceGivesTheSameResult_during :
    let x : Input := .during (readEvent copyV2 .status)
    let s := { copyV2 with pending := [x] }
    startCheck .memcpy s = none ∧ startUndefined .memcpy s = none ∧ s.pending = x :: [] ∧
      nextHas (exec .memcpy s) (fun t => t.status.busy && t.running == some (Running.start .memcpy)) =
        true := by decide +kernel

theorem witness_ReductionLoopEndsAfterAtMostLenSteps : dotV4.regs.dotLen.toNat ≤ [1, 9].length := by
  decide +kernel

theorem witness_RunningCommandEnds :
    copyRunning.running.map (·.raced) = some false ∧ copyRunning.running.map (·.stalled) = some false ∧
      copyRunning.pending = [] ∧
      workHangs copyRunning.params (workLeft { Running.start .memcpy with chan := 3 } copyRunning) =
        false := by decide +kernel

/-- A copy whose source never answers. -/
def copySilent : State :=
  { copyV2 with
    params := { Params.chosen with busMap := [⟨0x1004, 1, .silent⟩] }
    status := { Status.reset with busy := true }
    running := some (Running.start .memcpy) }

theorem witness_SilentBusStallsUntilReset_end :
    copySilent.running = some (Running.start .memcpy) ∧ copySilent.status.busy = true ∧
      Silent (Running.start .memcpy) copySilent ∧ copySilent.pending = [] ∧
      nextHas (step copySilent) (fun t => t.status.busy && t.running.all (·.stalled)) = true := by
  decide +kernel

theorem witness_SilentBusStallsUntilReset_turn :
    let s := { copySilent with pending := [.turn 2] }
    Silent (Running.start .memcpy) s ∧
      nextHas (step s) (fun t => t.status.busy && t.running.all fun r => !r.stalled && r.chan == 2) =
        true := by decide +kernel

/-- The command has stalled, and the host's soft reset is the next event. -/
theorem witness_SilentBusStallsUntilReset_reset :
    let r := { Running.start .memcpy with stalled := true }
    let e := writeEvent copySilent .ctrl 0x80000001#32
    let s := { copySilent with running := some r, pending := [.during e] }
    s.running = some r ∧ Silent r s ∧
      e = .write 0x40000008#32 .w32 0x80000001#64 ∧ targetOf s.params 0x40000008#32 .w32 = .reg .ctrl ∧
      ((0x80000001#64).setWidth 32).getLsbD 31 = true ∧
      nextHas (step s) (fun t => !t.status.busy && t.running.isNone) = true := by decide +kernel

/-- Source byte 2 and destination byte 0 err, and VLB is 2: the first step writes byte 0. -/
def copyTwoErrors : State :=
  { copyErr with
    params := { Params.chosen with
      vlb := 2#8
      busMap := [⟨0x1002, 1, .errorOnRead⟩, ⟨0x2000, 1, .errorOnWrite⟩] } }

theorem witness_CopyErrorAddressIsOfAnIssuedAccess :
    let s := copyTwoErrors
    s.params.wf = true ∧ startCheck .memcpy s = none ∧ startUndefined .memcpy s = none ∧
      interleaved s = false ∧
      workErrAddrs s.params (workLeft (Running.start .memcpy) s) = [0x2000, 0x2000, 0x1002, 0x1002] ∧
      workHangs s.params (workLeft (Running.start .memcpy) s) = false ∧
      nextHas (exec .memcpy s) (fun t => t.regs.errAddr == 0x00002000#32) = true := by decide +kernel

/-- 43_memcpy R312 with 00_scope R13: one byte whose source and destination both err is read first, and
never written. -/
theorem test_copy_error_is_the_read :
    nextHas (exec .memcpy { copyErr with
      regs := { copyErr.regs with cpyLen := 1#32 }
      params := { Params.chosen with
        busMap := [⟨0x1000, 1, .errorOnRead⟩, ⟨0x2000, 1, .errorOnWrite⟩] } }) (fun t =>
      t.regs.errAddr == 0x00001000#32 && t.status.errCode == .busError) = true := by decide +kernel

/-- 70_reset R530: a source that never answers stalls the copy, though its destination would err. -/
theorem test_silent_read_stalls :
    nextHas (exec .memcpy { copyErr with
      regs := { copyErr.regs with cpyLen := 1#32 }
      params := { Params.chosen with
        busMap := [⟨0x1000, 1, .silent⟩, ⟨0x2000, 1, .errorOnWrite⟩] } }) (fun t =>
      t.status.busy && t.running.all (·.stalled)) = true := by decide +kernel

theorem witness_RequantizationProperties : (-65 : Int) ≤ -65 ∧ rq 123456 0x40000000 (-65) = 0 := by
  decide +kernel

theorem witness_DatapathMeetsOutstage : (-32768 : Int) ≤ -32768 ∧ (-32768 : Int) ≤ 32767 := by decide

theorem witness_StoredOutputNeverWraps :
    let t := { convV4 with mem := place 0x5041 [0xBD#8, 0x0B#8] [] }
    ClampLegal Variant.s16.loType Variant.s16.hiType convV4.regs ∧ t.params.coherent = true ∧
      (∀ k < Variant.s16.es, t.mem.read (convAddress .s16 convV4.regs 0 0 0 0 + k) =
        BitVec.ofInt 8 (3005 / 2 ^ (8 * k))) := by decide +kernel

/-- V-CONV-1 with an INPUT_OFFSET of 245, which puts the inputs of 10 at the bound. -/
def convOffset : State := { convP3 with regs := { convP3.regs with inputOffset := 245#32 } }

/-- Of element (0, 0, 0, 0) the first row and column of taps are padded. -/
theorem witness_ConvS8SumFitsTheAccumulator :
    convOffset.regs.fltKH.toNat * convOffset.regs.fltKW.toNat * convOffset.regs.inC.toNat ≤ 65535 ∧
      (∀ ky < convOffset.regs.fltKH.toNat, ∀ kx < convOffset.regs.fltKW.toNat,
        InBounds convOffset.regs 0 0 ky kx → ∀ ic < convOffset.regs.inC.toNat,
          -255 ≤ inputOf .s8 convOffset 0 0 0 ky kx ic + convOffset.regs.inputOffset.toInt ∧
            inputOf .s8 convOffset 0 0 0 ky kx ic + convOffset.regs.inputOffset.toInt ≤ 255) ∧
      InBounds convOffset.regs 0 0 1 1 ∧ ¬ InBounds convOffset.regs 0 0 0 1 ∧
      inputOf .s8 convOffset 0 0 0 1 1 0 + convOffset.regs.inputOffset.toInt = 255 :=
  ⟨by decide +kernel, by decide +kernel, by decide +kernel, by decide +kernel, by decide +kernel⟩

theorem witness_BiasAbsentEqualsZeroBias :
    let s := { convV4 with mem := place 0x5010 [3#8] [] }
    startCheck (.convS16 true) s = none ∧ startUndefined (.convS16 true) s = none ∧
      Answers (.convS16 true) s ∧ interleaved s = false ∧
      ∀ oc < s.regs.outC.toNat, loadS s (s.regs.biasAddr.toNat + Variant.s16.bs * oc) Variant.s16.bs = 0 := by
  decide +kernel

theorem witness_EmptyConvolutionTouchesNothing :
    let s := { convV4 with regs := { convV4.regs with outC := 0#16, fltO := 0#16 } }
    startCheck (.convS16 true) s = none ∧ startUndefined (.convS16 true) s = none ∧
      interleaved s = false ∧ s.regs.outC = 0#16 := by decide +kernel

theorem witness_CommandsIgnoreTheRegistersTheyDoNotRead :
    Reg.inputOffset ∉ readOf (.dotS16 true) ∧ Reg.inputOffset ∉ resultOf (.dotS16 true) ∧
      Reg.biasAddr ∉ readOf (.convS8 false) ∧ Reg.biasAddr ∉ resultOf (.convS8 false) ∧
      Reg.accHi ∉ readOf .rqS8 ∧ Reg.accHi ∉ resultOf .rqS8 := by decide

theorem witness_StoreThenLoadElement :
    (8 : Nat) ∈ [1, 2, 4, 8] ∧ copyV2.mem.wf = true ∧ copyV2.params.coherent = true ∧
      -(2 ^ (8 * 8 - 1)) ≤ (-9223372036854775808 : Int) ∧
      (-9223372036854775808 : Int) < 2 ^ (8 * 8 - 1) := by decide +kernel

theorem witness_HostStoresReachTheEngine_store :
    let e : HostEvent := .write 0xFFFFFFF8#32 .w64 0x1122334455667788#64
    let s : State := { copyV2 with
      pending := [.host e]
      params := { Params.chosen with busMap := [⟨0xFFFFFFF0, 8, .device⟩] } }
    Delivered e s [] ∧ s.params.coherent = true ∧ s.mem.wf = true ∧
      targetOf s.params 0xFFFFFFF8#32 .w64 = .data ∧
      HostClear [.device, .silent, .errorOnWrite] s 0xFFFFFFF8#32 .w64 := by decide +kernel

/-- A host with dirty and stale cache lines. -/
def caching : State :=
  { copyV2 with
    params := { Params.chosen with coherent := false }
    unclean := [0x1001, 0x1002]
    stale := [0x2003] }

theorem witness_HostStoresReachTheEngine_clean :
    let s := { caching with pending := [.host (.clean 0x1000 0x10)] }
    Delivered (.clean 0x1000 0x10) s [] ∧ s.params.coherent = false ∧ 0x1000 ≤ 0x1001 ∧
      0x1001 < 0x1000 + 0x10 ∧ s.stale.contains 0x1001 = false := by decide +kernel

theorem witness_HostStoresReachTheEngine_storeThenClean :
    let s := { caching with
      pending := [.host (.write 0x1001#32 .w16 0xABCD#64), .host (.clean 0x1000 0x10)] }
    s.running = none ∧ s.mem.wf = true ∧ s.params.coherent = false ∧
      targetOf s.params 0x1001#32 .w16 = .data ∧
      HostClear [.device, .silent, .errorOnWrite] s 0x1001#32 .w16 ∧ 0x1000 ≤ (0x1001#32).toNat ∧
      (0x1001#32).toNat + Width.w16.bytes ≤ 0x1000 + 0x10 := by decide +kernel

theorem witness_EngineStoresReachTheHost_invalidate :
    let s := { caching with pending := [.host (.invalidate 0x2000 0x10)] }
    Delivered (.invalidate 0x2000 0x10) s [] ∧ s.params.coherent = false ∧ 0x2000 ≤ 0x2003 ∧
      0x2003 < 0x2000 + 0x10 ∧ s.unclean.contains 0x2003 = false := by decide +kernel

theorem witness_EngineStoresReachTheHost_invalidateThenLoad :
    let s := { caching with pending := [.host (.invalidate 0x2000 0x10), .host (.read 0x2003#32 .w8)] }
    s.running = none ∧ s.params.coherent = false ∧ targetOf s.params 0x2003#32 .w8 = .data ∧
      HostClear [.device, .silent, .errorOnRead] s 0x2003#32 .w8 ∧ 0x2000 ≤ (0x2003#32).toNat ∧
      (0x2003#32).toNat + Width.w8.bytes ≤ 0x2000 + 0x10 ∧
      (∀ k < Width.w8.bytes, s.unclean.contains ((0x2003#32).toNat + k) = false) := by decide +kernel

/-- A load from the source of the running copy. -/
theorem witness_HostLoadReturnsTheMemoryValue :
    let s := { copyRunning with pending := [.during (.read 0x1001#32 .w32)] }
    Delivered (.read 0x1001#32 .w32) s [] ∧ targetOf s.params 0x1001#32 .w32 = .data ∧
      HostClear [.device, .silent, .errorOnRead] s 0x1001#32 .w32 ∧ s.params.coherent = true ∧
      s.running.map (·.cmd) = some .memcpy ∧
      (∀ q ∈ writeRegions .memcpy s.regs,
        q.overlaps ⟨(0x1001#32).toNat, Width.w32.bytes⟩ = false) ∧
      nextHas (step s) (fun t => t.response == .data 0x44332211#64) = true := by decide +kernel

theorem witness_HostRaceMakesTheCommandUndefined_store :
    let s := { copyRunning with pending := [.during (.write 0x1007#32 .w8 1#64)] }
    s.running.map (fun r => (r.cmd, r.stalled)) = some (.memcpy, false) ∧
      workHangs s.params (workLeft { Running.start .memcpy with chan := 3 } s) = false ∧
      targetOf s.params 0x1007#32 .w8 = .data ∧ HostClear [.device, .silent] s 0x1007#32 .w8 ∧
      ∃ q ∈ readRegions .memcpy s.regs ++ writeRegions .memcpy s.regs,
        q.overlaps ⟨(0x1007#32).toNat, Width.w8.bytes⟩ = true := by decide +kernel

/-- The load itself gets an error response, and is a race all the same. -/
theorem witness_HostRaceMakesTheCommandUndefined_load :
    let s := { copyRunning with
      params := { Params.chosen with busMap := [⟨0x2003, 1, .errorOnRead⟩] }
      pending := [.during (.read 0x2000#32 .w32)] }
    s.running.map (fun r => (r.cmd, r.stalled)) = some (.memcpy, false) ∧
      workHangs s.params (workLeft { Running.start .memcpy with chan := 3 } s) = false ∧
      targetOf s.params 0x2000#32 .w32 = .data ∧ HostClear [.device, .silent] s 0x2000#32 .w32 ∧
      (∃ q ∈ writeRegions .memcpy s.regs,
        q.overlaps ⟨(0x2000#32).toNat, Width.w32.bytes⟩ = true) ∧
      nextHas (step s) (fun t => t.running.all (·.raced) && t.response == .busError) = true := by
  decide +kernel

/-- The store gets an error response for its form: it runs beyond 2^32. It is a race all the same. -/
theorem witness_HostRaceMakesTheCommandUndefined_form :
    let s := { copyRunning with
      regs := { copyRunning.regs with cpyDst := 0xFFFFFFF8#32 }
      pending := [.during (.write 0xFFFFFFFC#32 .w64 1#64)] }
    s.running.map (fun r => (r.cmd, r.stalled)) = some (.memcpy, false) ∧
      workHangs s.params (workLeft { Running.start .memcpy with chan := 3 } s) = false ∧
      targetOf s.params 0xFFFFFFFC#32 .w64 = .error ∧
      insideBlock s.params ⟨(0xFFFFFFFC#32).toNat, Width.w64.bytes⟩ = false ∧
      (∃ q ∈ readRegions .memcpy s.regs ++ writeRegions .memcpy s.regs,
        q.overlaps ⟨(0xFFFFFFFC#32).toNat, Width.w64.bytes⟩ = true) ∧
      nextHas (step s) (fun t => t.running.any (·.raced) && t.response == .busError) = true := by
  decide +kernel

theorem witness_OperandsAreImmutableWhileBusy :
    let s := busyWriting .cpyLen 5#32
    s.statusGood = true ∧ s.running.isSome = true ∧ nextHas (step s) (fun t => t.status.busy) = true := by
  decide +kernel

theorem witness_CommandsEndOnlyInTheThreeWays :
    copyRunning.statusGood = true ∧ copyRunning.running.isSome = true ∧
      nextHas (step copyRunning) (fun t => !t.status.busy) = true := by decide +kernel

theorem witness_CommandsEndOnlyInTheThreeWays_reset :
    let s := busyWriting .ctrl 0x80000001#32
    s.statusGood = true ∧ s.running.isSome = true ∧
      nextHas (step s) (fun t => !t.status.busy && t.running.isNone && t.status == Status.reset) = true := by
  decide +kernel

/-- For the invariants: a good state with a running command, and a step from it. -/
theorem witness_invariants :
    copyRunning.good = true ∧ copyRunning.statusGood = true ∧ copyRunning.mem.wf = true ∧
      nextHas (step copyRunning) (fun t => t.good) = true := by decide +kernel

theorem witness_ResetMeetsTheInvariant : Params.chosen.wf = true := by decide

end Sys2Proof.Tests
end

section
/-! PROOFS. Little-endian elements (00_scope R15, 20_memory R100): the bytes a store leaves, and the element a
load assembles from bytes. -/

namespace Sys2Proof.Machine

theorem elementCells_addrs (a n : Nat) (x : Int) :
    (elementCells a n x).map (·.1) = (List.range n).map (a + ·) := by
  simp [elementCells, Function.comp_def]

/-- The bytes of an element stand at addresses of their own. -/
theorem elementCells_addrs_nodup (a n : Nat) (x : Int) : ((elementCells a n x).map (·.1)).Nodup := by
  rw [elementCells_addrs]
  exact List.nodup_range.map (add_right_injective a)

theorem mem_elementCells {a n k : Nat} (x : Int) (hk : k < n) :
    (a + k, BitVec.ofInt 8 (x / 2 ^ (8 * k))) ∈ elementCells a n x :=
  List.mem_map.mpr ⟨k, List.mem_range.mpr hk, rfl⟩

/-- Byte `k` of a stored element holds its bits [8k+7:8k]. -/
theorem Memory.read_writeCells_elementCells (m : Memory) {a n k : Nat} (x : Int) (hm : m.wf = true)
    (hk : k < n) :
    (m.writeCells (elementCells a n x)).read (a + k) = BitVec.ofInt 8 (x / 2 ^ (8 * k)) :=
  Memory.read_writeCells_mem m _ _ _ hm (mem_elementCells x hk) (elementCells_addrs_nodup a n x)

/-- With COHERENT = true the engine reads what memory holds (20_memory R120). -/
theorem engineByte_of_coherent {s : State} (hc : s.params.coherent = true) (a : Nat) :
    engineByte s a = s.mem.read a := by
  simp [engineByte, hc]

/-- The lowest digit to base `b` of a remainder, and the digits above it. -/
theorem emod_mul_eq_low_add_high (x c : Int) {b : Int} (hb : 0 ≤ b) :
    x % (b * c) = x % b + b * (x / b % c) := by
  rw [Int.emod_def, Int.emod_def x b, Int.emod_def (x / b), Int.ediv_ediv_of_nonneg hb]
  ring

/-- Bytes that hold the digits of a value to base 256, lowest first, are read as its pattern. -/
theorem memRead_of_bytes {s : State} {a n : Nat} {x : Int}
    (h : ∀ k < n, engineByte s (a + k) = BitVec.ofInt 8 (x / 2 ^ (8 * k))) :
    (memRead s a n : Int) = x % 2 ^ (8 * n) := by
  induction n generalizing a x with
  | zero => simp [memRead]
  | succ n ih =>
    have hlow : ((engineByte s a).toNat : Int) = x % 256 := by
      have h0 : engineByte s a = BitVec.ofInt 8 x := by simpa using h 0 (Nat.succ_pos n)
      rw [h0, BitVec.toNat_ofInt]
      omega
    have hhigh : (memRead s (a + 1) n : Int) = x / 256 % 2 ^ (8 * n) := by
      refine ih fun k hk => ?_
      rw [Nat.add_right_comm, Nat.add_assoc, h (k + 1) (by omega),
        Int.ediv_ediv_of_nonneg (by decide), Nat.mul_add, Nat.add_comm, pow_add]
      rfl
    calc (memRead s a (n + 1) : Int)
        = x % 256 + 256 * (x / 256 % 2 ^ (8 * n)) := by simp [memRead, hlow, hhigh]
      _ = x % (256 * 2 ^ (8 * n)) := (emod_mul_eq_low_add_high x _ (by decide)).symm
      _ = x % 2 ^ (8 * (n + 1)) := by rw [Nat.mul_add, Nat.add_comm, pow_add]; rfl

/-- `signed_W` of the W-bit pattern of a value in range is the value (00_scope R11). -/
theorem signedOf_of_emod {w p : Nat} {x : Int} (hw : 0 < w) (hp : (p : Int) = x % 2 ^ w)
    (hlo : -(2 ^ (w - 1)) ≤ x) (hhi : x < 2 ^ (w - 1)) : signedOf w p = x := by
  have hpow : (2 : Int) ^ w = 2 * 2 ^ (w - 1) := (mul_pow_sub_one hw.ne' 2).symm
  have hcast : ((2 ^ (w - 1) : Nat) : Int) = 2 ^ (w - 1) := by push_cast; rfl
  rw [hpow] at hp
  unfold signedOf
  rw [hpow]
  obtain hx | hx := lt_or_ge x 0
  · have hpx : (p : Int) = x + 2 * 2 ^ (w - 1) := by
      rw [hp, ← Int.add_emod_right, Int.emod_eq_of_lt (by omega) (by omega)]
    rw [if_neg (by omega)]
    omega
  · have hpx : (p : Int) = x := by rw [hp, Int.emod_eq_of_lt hx (by omega)]
    rw [if_pos (by omega), hpx]

/-- Bytes that hold the digits of a value in range are loaded as the value. -/
theorem loadS_of_bytes {s : State} {a n : Nat} {x : Int} (hn : 0 < n)
    (h : ∀ k < n, engineByte s (a + k) = BitVec.ofInt 8 (x / 2 ^ (8 * k)))
    (hlo : -(2 ^ (8 * n - 1)) ≤ x) (hhi : x < 2 ^ (8 * n - 1)) : loadS s a n = x :=
  signedOf_of_emod (Nat.mul_pos (by decide) hn) (memRead_of_bytes h) hlo hhi

/-- Settles O49: each stored byte is read back, and a load assembles the bytes of the element. -/
theorem storeThenLoadElement : Obligations.StoreThenLoadElement := by
  intro s a n x hn hm hc hlo hhi
  have hpos : 0 < n := Nat.pos_of_ne_zero (by rintro rfl; simp at hn)
  have hbyte : ∀ k < n, (storeCells (elementCells a n x) s).mem.read (a + k) =
      BitVec.ofInt 8 (x / 2 ^ (8 * k)) :=
    fun k hk => Memory.read_writeCells_elementCells s.mem x hm hk
  refine ⟨loadS_of_bytes hpos (fun k hk => ?_) hlo hhi, by simpa using hbyte 0 hpos⟩
  rw [engineByte_of_coherent (by simpa using hc), hbyte k hk]

end Sys2Proof.Machine
end

section
/-! PROOFS. What a step can come to, one lemma per operation that a host event or the engine may go through,
and from these: no step changes a parameter (00_scope R9). -/

namespace Sys2Proof.Machine

/-! ## Register writes -/

/-- What an accepted START can come to. -/
theorem startCommand_next {s t : State} (h : startCommand s = .next t) :
    t = raiseError .illegalCmd 0#32 (acceptStart s) ∨
      ∃ i, decode s.regs.cmd = .ok i ∧ exec i (acceptStart s) = .next t := by
  unfold startCommand at h
  split at h
  · exact .inl (Host.Outcome.next.inj h).symm
  next i hi => exact .inr ⟨i, hi, h⟩

/-- What a write of CTRL can come to. -/
theorem writeCtrl_next {w : Word} {s t : State} (h : writeCtrl w s = .next t) :
    (w.getLsbD 31 = true ∧ t = resetBlock s) ∨
    (w.getLsbD 31 = false ∧ s.status.busy = true ∧ t = ignoreWrite s) ∨
    (w.getLsbD 31 = false ∧ s.status.busy = false ∧ w.getLsbD 0 = true ∧
      startCommand (storeEnables w s) = .next t) ∨
    (w.getLsbD 31 = false ∧ s.status.busy = false ∧ w.getLsbD 0 = false ∧ t = storeEnables w s) := by
  unfold writeCtrl at h
  split at h
  next hr => exact .inl ⟨hr, (Host.Outcome.next.inj h).symm⟩
  next hr =>
    rw [Bool.not_eq_true] at hr
    split at h
    next hb => exact .inr (.inl ⟨hr, hb, (Host.Outcome.next.inj h).symm⟩)
    next hb =>
      rw [Bool.not_eq_true] at hb
      split at h
      next hs => exact .inr (.inr (.inl ⟨hr, hb, hs, h⟩))
      next hs =>
        rw [Bool.not_eq_true] at hs
        exact .inr (.inr (.inr ⟨hr, hb, hs, (Host.Outcome.next.inj h).symm⟩))

/-- What a write of a register can come to. -/
theorem hostWriteReg_next {r : Reg} {w : Word} {s t : State} (h : hostWriteReg r w s = .next t) :
    (r = .ctrl ∧ writeCtrl w s = .next t) ∨
    (r = .status ∧ t = writeStatus w s) ∨
    (r ≠ .ctrl ∧ r ≠ .status ∧ s.status.busy = true ∧ t = ignoreWrite s) ∨
    (r ≠ .ctrl ∧ r ≠ .status ∧ s.status.busy = false ∧
      t = { s with regs := writeReg r w s.regs }) := by
  unfold hostWriteReg at h
  split at h
  · exact .inl ⟨rfl, h⟩
  · exact .inr (.inl ⟨rfl, (Host.Outcome.next.inj h).symm⟩)
  next hc hs =>
    split at h
    next hb => exact .inr (.inr (.inl ⟨hc, hs, hb, (Host.Outcome.next.inj h).symm⟩))
    next hb =>
      exact .inr (.inr (.inr ⟨hc, hs, by simpa using hb, (Host.Outcome.next.inj h).symm⟩))

/-! ## Data-space accesses of the host -/

/-- What a load from the data space can come to. -/
theorem hostReadData_next {q : Region} {s t : State} (h : hostReadData q s = .next t) :
    t = respond .busError (markRace (touchesWriteRegion s.regs q) s) ∨
      t = respond (.data (BitVec.ofNat 64 (assemble (hostReadByte s) q.base q.size)))
        { markRace (touchesWriteRegion s.regs q) s with draws := s.draws + 1 } := by
  simp only [hostReadData] at h
  split at h
  · cases h
  · split at h
    · exact .inl (Host.Outcome.next.inj h).symm
    · exact .inr (Host.Outcome.next.inj h).symm

/-- What a store to the data space can come to. -/
theorem hostWriteData_next {q : Region} {value : BitVec 64} {s t : State}
    (h : hostWriteData q value s = .next t) :
    t = respond .busError (markRace (touchesAnyRegion s.regs q) s) ∨
      t = respond .done (hostStore (elementCells q.base q.size value.toInt)
        (markRace (touchesAnyRegion s.regs q) s)) := by
  simp only [hostWriteData] at h
  split at h
  · cases h
  · split at h
    · exact .inl (Host.Outcome.next.inj h).symm
    · exact .inr (Host.Outcome.next.inj h).symm

/-- What a host load can come to, by its target. -/
theorem hostRead_next {addr : Word} {w : Width} {s t : State} (h : hostRead addr w s = .next t) :
    (targetOf s.params addr w = .error ∧
      t = strayAccess (touchesWriteRegion s.regs ⟨addr.toNat, w.bytes⟩) ⟨addr.toNat, w.bytes⟩ s) ∨
    (targetOf s.params addr w = .reserved ∧ t = respond (.data 0#64) s) ∨
    (∃ r, targetOf s.params addr w = .reg r ∧ t = hostReadReg r s) ∨
    (targetOf s.params addr w = .data ∧ hostReadData ⟨addr.toNat, w.bytes⟩ s = .next t) := by
  unfold hostRead at h
  split at h
  next ht => exact .inl ⟨ht, (Host.Outcome.next.inj h).symm⟩
  next ht => exact .inr (.inl ⟨ht, (Host.Outcome.next.inj h).symm⟩)
  next r ht => exact .inr (.inr (.inl ⟨r, ht, (Host.Outcome.next.inj h).symm⟩))
  next ht => exact .inr (.inr (.inr ⟨ht, h⟩))

/-- What a host store can come to, by its target. -/
theorem hostWrite_next {addr : Word} {w : Width} {value : BitVec 64} {s t : State}
    (h : hostWrite addr w value s = .next t) :
    (targetOf s.params addr w = .error ∧
      t = strayAccess (touchesAnyRegion s.regs ⟨addr.toNat, w.bytes⟩) ⟨addr.toNat, w.bytes⟩ s) ∨
    (targetOf s.params addr w = .reserved ∧ t = respond .done s) ∨
    (∃ r, targetOf s.params addr w = .reg r ∧
      hostWriteReg r (value.setWidth 32) (respond .done s) = .next t) ∨
    (targetOf s.params addr w = .data ∧
      hostWriteData ⟨addr.toNat, w.bytes⟩ value s = .next t) := by
  unfold hostWrite at h
  split at h
  next ht => exact .inl ⟨ht, (Host.Outcome.next.inj h).symm⟩
  next ht => exact .inr (.inl ⟨ht, (Host.Outcome.next.inj h).symm⟩)
  next r ht => exact .inr (.inr (.inl ⟨r, ht, h⟩))
  next ht => exact .inr (.inr (.inr ⟨ht, h⟩))

/-! ## The parameters -/

@[simp] theorem resetBlock_params (s : State) : (resetBlock s).params = s.params := by
  obtain ⟨-, h⟩ | ⟨r, -, ⟨-, h⟩ | ⟨-, h⟩⟩ := resetBlock_cases s <;> simp [h]

@[simp] theorem markRace_params (touches : Running → Bool) (s : State) :
    (markRace touches s).params = s.params := by
  obtain h | ⟨r, -, -, h⟩ := markRace_cases touches s <;> rw [h]

@[simp] theorem strayAccess_params (touches : Running → Bool) (q : Region) (s : State) :
    (strayAccess touches q s).params = s.params := by
  obtain h | ⟨r, -, -, -, h⟩ := strayAccess_cases touches q s <;> rw [h, respond_params]

@[simp] theorem hostReadReg_params (r : Reg) (s : State) : (hostReadReg r s).params = s.params := by
  unfold hostReadReg
  split <;> rfl

@[simp] theorem hostStore_params (cells : List Host.Cell) (s : State) :
    (hostStore cells s).params = s.params := rfl

@[simp] theorem loseBytes_params (addrs : List Nat) (s : State) :
    (loseBytes addrs s).params = s.params := rfl

@[simp] theorem hostClean_params (q : Region) (s : State) : (hostClean q s).params = s.params := by
  unfold hostClean
  split <;> simp

@[simp] theorem hostInvalidate_params (q : Region) (s : State) :
    (hostInvalidate q s).params = s.params := by
  unfold hostInvalidate
  split <;> simp

theorem endWith_params {r : Running} {x : Exposed} {work : List WorkUnit} {results : Regs}
    {s t : State} (h : endWith r x work results s = .next t) : t.params = s.params := by
  obtain rfl | rfl | rfl | rfl := endWith_next h <;> simp

theorem exec_params {i : Instr} {s t : State} (h : exec i s = .next t) : t.params = s.params := by
  rw [exec_eq_runCommand] at h
  obtain ⟨e, -, h'⟩ | ⟨f, -, -, h'⟩ | ⟨-, -, -, h'⟩ | ⟨-, -, -, h'⟩ :=
    runCommand_cases i (startCheck i s) (startUndefined i s) (stepWindow i s.params)
      (workLeft (Running.start i) s) (resultRegs (Running.start i) s) s <;> rw [h'] at h
  · cases h; rfl
  · cases h
  · cases h; rfl
  · exact (endWith_params h).trans (beginCommand_params i s)

theorem startCommand_params {s t : State} (h : startCommand s = .next t) : t.params = s.params := by
  obtain rfl | ⟨i, -, hi⟩ := startCommand_next h
  · simp
  · exact (exec_params hi).trans (acceptStart_params s)

theorem hostWriteReg_params {r : Reg} {w : Word} {s t : State} (h : hostWriteReg r w s = .next t) :
    t.params = s.params := by
  obtain ⟨-, h⟩ | ⟨-, rfl⟩ | ⟨-, -, -, rfl⟩ | ⟨-, -, -, rfl⟩ := hostWriteReg_next h
  · obtain ⟨-, rfl⟩ | ⟨-, -, rfl⟩ | ⟨-, -, -, hs⟩ | ⟨-, -, -, rfl⟩ := writeCtrl_next h
    · simp
    · simp
    · exact (startCommand_params hs).trans (storeEnables_params w s)
    · simp
  · simp
  · simp
  · rfl

theorem hostRead_params {addr : Word} {w : Width} {s t : State} (h : hostRead addr w s = .next t) :
    t.params = s.params := by
  obtain ⟨-, rfl⟩ | ⟨-, rfl⟩ | ⟨r, -, rfl⟩ | ⟨-, h⟩ := hostRead_next h
  · simp
  · simp
  · simp
  · obtain rfl | rfl := hostReadData_next h <;> simp

theorem hostWrite_params {addr : Word} {w : Width} {value : BitVec 64} {s t : State}
    (h : hostWrite addr w value s = .next t) : t.params = s.params := by
  obtain ⟨-, rfl⟩ | ⟨-, rfl⟩ | ⟨r, -, h⟩ | ⟨-, h⟩ := hostWrite_next h
  · simp
  · simp
  · exact (hostWriteReg_params h).trans (respond_params .done s)
  · obtain rfl | rfl := hostWriteData_next h <;> simp

theorem hostEvent_params {e : HostEvent} {s t : State} (h : hostEvent e s = .next t) :
    t.params = s.params := by
  cases e with
  | read addr w => exact hostRead_params h
  | write addr w value => exact hostWrite_params h
  | clean addr size => cases h; simp
  | invalidate addr size => cases h; simp
  | hardReset => cases h; simp

theorem engineTurn_params {ask : Nat} {r : Running} {s t : State}
    (h : engineTurn ask r s = .next t) : t.params = s.params := by
  obtain ⟨-, h'⟩ | ⟨-, -, h'⟩ | ⟨-, -, h'⟩ := engineTurn_cases ask r s <;> rw [h'] at h
  · cases h; rfl
  · cases h; rfl
  · exact endWith_params h

/-- Settles O57, by the kinds of step: an idle step, the end of a command, an event from outside, a grant
without a command, and an internal step. -/
theorem stepKeepsTheParameters : Obligations.StepKeepsTheParameters := by
  intro s t h
  obtain ⟨-, -, h'⟩ | ⟨r, -, h'⟩ | ⟨e, rest, -, h'⟩ | ⟨ask, rest, -, -, h'⟩ |
    ⟨ask, rest, r, -, -, h'⟩ := step_cases s <;> rw [h'] at h
  · cases h; rfl
  · exact endWith_params h
  · exact hostEvent_params (s := { s with pending := rest }) h
  · cases h; rfl
  · exact engineTurn_params (s := { s with pending := rest }) h

end Sys2Proof.Machine
end

section
/-! PROOFS. A step as a chain of elementary changes of the state (`Change`). An invariant that every change
keeps is kept by every step (`step_keeps`). -/

namespace Sys2Proof.Machine

/-! ## What the rule of a command does not look at -/

/-- The checks of a command do not look at STATUS, ERR_ADDR, memory or the hidden state. -/
theorem startCheck_congr {i : Instr} {s t : State} {a : Word}
    (h : t.regs = { s.regs with errAddr := a }) : startCheck i t = startCheck i s := by
  cases i <;> simp only [startCheck, convCheck, dotCheck, rqCheck, copyCheck, h] <;> rfl

/-- Nor do its UNDEFINED cases. -/
theorem startUndefined_congr {i : Instr} {s t : State} {a : Word}
    (h : t.regs = { s.regs with errAddr := a }) (hp : t.params = s.params) :
    startUndefined i t = startUndefined i s := by
  cases i <;> simp only [startUndefined, convUndefined, copyUndefined, h, hp] <;> rfl

theorem workLeft_beginCommand (r : Running) (i : Instr) (s : State) :
    workLeft r (beginCommand i s) = workLeft r s := by
  unfold workLeft
  cases r.cmd <;> rfl

theorem resultRegs_beginCommand (r : Running) (i : Instr) (s : State) :
    resultRegs r (beginCommand i s) = resultRegs r s := by
  unfold resultRegs
  cases r.cmd <;> rfl

/-- An access of the data space ends inside the address space (10_state R58). -/
theorem targetOf_data_le {p : Params} {addr : Word} {w : Width} (h : targetOf p addr w = .data) :
    addr.toNat + w.bytes ≤ 2 ^ 32 := by
  unfold targetOf at h
  split at h
  · cases h
  next hle => omega

/-! ## The elementary changes -/

/-- One elementary change of the state, with what the machine has checked when it makes it. -/
inductive Change (s : State) : State → Prop
  /-- The next event of the order is taken. -/
  | event (rest : List Input) : Change s { s with pending := rest }
  /-- The slave port answers. -/
  | answer (a : Response) : Change s (respond a s)
  /-- Free values are drawn. -/
  | draw (n : Nat) : Change s { s with draws := n }
  /-- The host races with the running command (20_memory R122). -/
  | race (r : Running) (hr : s.running = some r) :
      Change s { s with running := some { r with raced := true } }
  /-- The host stores to the data space (20_memory R120). -/
  | store (a n : Nat) (x : Int) (hle : a + n ≤ 2 ^ 32) : Change s (hostStore (elementCells a n x) s)
  /-- The host writes back or invalidates bytes of its caches, some of which are lost (70_reset R524). -/
  | uncache (lost unclean stale : List Nat) (hlost : lost ⊆ s.unclean) (hsub : unclean ⊆ s.unclean) :
      Change s { loseBytes lost s with unclean := unclean, stale := stale }
  /-- The host writes STATUS (10_state R37). -/
  | acknowledge (w : Word) : Change s (writeStatus w s)
  /-- A register write is dropped (10_state R51). -/
  | ignore : Change s (ignoreWrite s)
  /-- A CTRL write stores its enables (10_state R35). -/
  | enables (w : Word) : Change s (storeEnables w s)
  /-- The host writes a register of the RW or RO class while BUSY = 0 (10_state R32). -/
  | register (r : Reg) (w : Word) (hb : s.status.busy = false) :
      Change s { s with regs := writeReg r w s.regs }
  /-- A START finds an illegal word (60_exceptions R410). -/
  | illegal (hb : s.status.busy = false) : Change s (raiseError .illegalCmd 0#32 (acceptStart s))
  /-- A START fails a check of its command (60_exceptions R411). -/
  | startError (i : Instr) (e : ErrCode × Word) (hb : s.status.busy = false)
      (hc : startCheck i s = some e) : Change s (raiseError e.1 e.2 (acceptStart s))
  /-- A command begins (60_exceptions R410). -/
  | begin (i : Instr) (hb : s.status.busy = false) (hd : decode s.regs.cmd = .ok i)
      (hc : startCheck i s = none) (hu : startUndefined i s = none) :
      Change s (beginCommand i (acceptStart s))
  /-- The running command makes an internal step (10_state R55). -/
  | turn (ask : Nat) (r : Running) (hr : s.running = some r) :
      Change s { s with running := some (turnRunning ask r s) }
  /-- The running command waits for an access that never ends (70_reset R530). -/
  | stall (r : Running) (hr : s.running = some r) : Change s (stallCommand r s)
  /-- The running command completes (60_exceptions R413). -/
  | complete (r : Running) (hr : s.running = some r) :
      Change s (completeCommand (workCells (workLeft r s)) (resultRegs r s) s)
  /-- The running command takes a bus error (60_exceptions R412). -/
  | busError (r : Running) (candidates : List Nat) (hr : s.running = some r) :
      Change s (busErrorEnd candidates (workLeft r s) s)
  /-- A reset abandons the running command (70_reset R502). -/
  | abandon (r : Running) (hr : s.running = some r) : Change s (abandonWith (workLeft r s) s)
  /-- A reset abandons a running command the host raced with (20_memory R122). -/
  | abandonRaced (r : Running) (hr : s.running = some r) :
      Change s (abandonRaced (writeRegions r.cmd s.regs) s)
  /-- Every register of the block is reset (70_reset R500, R501). -/
  | reset : Change s (resetRegisters s)

/-- Some elementary changes, one after the other. -/
abbrev Changes : State → State → Prop := Relation.ReflTransGen Change

theorem Changes.one {s t : State} (h : Change s t) : Changes s t := .single h

@[simp] theorem markRace_unclean (touches : Running → Bool) (s : State) :
    (markRace touches s).unclean = s.unclean := by
  obtain h | ⟨r, -, -, h⟩ := markRace_cases touches s <;> rw [h]

/-! ## Every operation is a chain of changes -/

theorem markRace_changes (touches : Running → Bool) (s : State) : Changes s (markRace touches s) := by
  obtain h | ⟨r, hr, -, h⟩ := markRace_cases touches s <;> rw [h]
  exact .one (.race r hr)

theorem strayAccess_changes (touches : Running → Bool) (q : Region) (s : State) :
    Changes s (strayAccess touches q s) := by
  obtain h | ⟨r, hr, -, -, h⟩ := strayAccess_cases touches q s <;> rw [h]
  · exact .one (.answer _)
  · exact (Changes.one (.race r hr)).tail (.answer _)

theorem resetBlock_changes (s : State) : Changes s (resetBlock s) := by
  obtain ⟨-, h⟩ | ⟨r, hr, ⟨-, h⟩ | ⟨-, h⟩⟩ := resetBlock_cases s <;> rw [h]
  · exact .one .reset
  · exact (Changes.one (.abandon r hr)).tail .reset
  · exact (Changes.one (.abandonRaced r hr)).tail .reset

theorem hostClean_changes (q : Region) (s : State) : Changes s (hostClean q s) := by
  unfold hostClean
  split
  · exact .refl
  · refine (markRace_changes _ s).tail (.uncache _ _ _ ?_ ?_) <;> rw [markRace_unclean]
    · exact List.Subset.trans (List.filter_subset_self _) (List.filter_subset_self _)
    · exact List.filter_subset_self _

theorem hostInvalidate_changes (q : Region) (s : State) : Changes s (hostInvalidate q s) := by
  unfold hostInvalidate
  split
  · exact .refl
  · exact .one (.uncache _ _ _ (List.filter_subset_self _) (List.filter_subset_self _))

theorem hostReadReg_changes (r : Reg) (s : State) : Changes s (hostReadReg r s) := by
  unfold hostReadReg
  split
  · exact (Changes.one (.draw _)).tail (.answer _)
  · exact .one (.answer _)

theorem hostReadData_changes {q : Region} {s t : State} (h : hostReadData q s = .next t) :
    Changes s t := by
  obtain rfl | rfl := hostReadData_next h
  · exact (markRace_changes _ s).tail (.answer _)
  · exact ((markRace_changes _ s).tail (.draw _)).tail (.answer _)

theorem hostWriteData_changes {q : Region} {value : BitVec 64} {s t : State}
    (hq : q.base + q.size ≤ 2 ^ 32) (h : hostWriteData q value s = .next t) : Changes s t := by
  obtain rfl | rfl := hostWriteData_next h
  · exact (markRace_changes _ s).tail (.answer _)
  · exact ((markRace_changes _ s).tail (.store _ _ _ hq)).tail (.answer _)

theorem endWith_changes {r : Running} {x : Exposed} {s t : State} (hr : s.running = some r)
    (h : endWith r x (workLeft r s) (resultRegs r s) s = .next t) : Changes s t := by
  obtain rfl | rfl | rfl | rfl := endWith_next h
  · exact .refl
  · exact .one (.stall r hr)
  · exact .one (.complete r hr)
  · exact .one (.busError r _ hr)

theorem engineTurn_changes {ask : Nat} {r : Running} {s t : State} (hr : s.running = some r)
    (h : engineTurn ask r s = .next t) : Changes s t := by
  obtain ⟨-, h'⟩ | ⟨-, -, h'⟩ | ⟨-, -, h'⟩ := engineTurn_cases ask r s <;> rw [h'] at h
  · cases h; exact .refl
  · cases h; exact .one (.turn ask r hr)
  · exact endWith_changes hr h

theorem startCommand_changes {s t : State} (hb : s.status.busy = false)
    (h : startCommand s = .next t) : Changes s t := by
  obtain rfl | ⟨i, hd, h⟩ := startCommand_next h
  · exact .one (.illegal hb)
  rw [exec_eq_runCommand, startCheck_congr (s := s) (acceptStart_regs s),
    startUndefined_congr (s := s) (acceptStart_regs s) (acceptStart_params s)] at h
  obtain ⟨e, hc, h'⟩ | ⟨f, -, -, h'⟩ | ⟨hc, hu, -, h'⟩ | ⟨hc, hu, -, h'⟩ := runCommand_cases i
    (startCheck i s) (startUndefined i s) (stepWindow i (acceptStart s).params)
    (workLeft (Running.start i) (acceptStart s)) (resultRegs (Running.start i) (acceptStart s))
    (acceptStart s) <;> rw [h'] at h
  · cases h; exact .one (.startError i e hb hc)
  · cases h
  · cases h; exact .one (.begin i hb hd hc hu)
  · rw [← workLeft_beginCommand _ i, ← resultRegs_beginCommand _ i] at h
    exact (Changes.one (.begin i hb hd hc hu)).trans (endWith_changes rfl h)

theorem writeCtrl_changes {w : Word} {s t : State} (h : writeCtrl w s = .next t) : Changes s t := by
  obtain ⟨-, rfl⟩ | ⟨-, -, rfl⟩ | ⟨-, hb, -, h⟩ | ⟨-, -, -, rfl⟩ := writeCtrl_next h
  · exact resetBlock_changes s
  · exact .one .ignore
  · exact (Changes.one (.enables w)).trans (startCommand_changes (s := storeEnables w s) hb h)
  · exact .one (.enables w)

theorem hostWriteReg_changes {r : Reg} {w : Word} {s t : State} (h : hostWriteReg r w s = .next t) :
    Changes s t := by
  obtain ⟨-, h⟩ | ⟨-, rfl⟩ | ⟨-, -, -, rfl⟩ | ⟨-, -, hb, rfl⟩ := hostWriteReg_next h
  · exact writeCtrl_changes h
  · exact .one (.acknowledge w)
  · exact .one .ignore
  · exact .one (.register r w hb)

theorem hostRead_changes {addr : Word} {w : Width} {s t : State} (h : hostRead addr w s = .next t) :
    Changes s t := by
  obtain ⟨-, rfl⟩ | ⟨-, rfl⟩ | ⟨r, -, rfl⟩ | ⟨-, h⟩ := hostRead_next h
  · exact strayAccess_changes _ _ s
  · exact .one (.answer _)
  · exact hostReadReg_changes r s
  · exact hostReadData_changes h

theorem hostWrite_changes {addr : Word} {w : Width} {value : BitVec 64} {s t : State}
    (h : hostWrite addr w value s = .next t) : Changes s t := by
  obtain ⟨-, rfl⟩ | ⟨-, rfl⟩ | ⟨r, -, h⟩ | ⟨ht, h⟩ := hostWrite_next h
  · exact strayAccess_changes _ _ s
  · exact .one (.answer _)
  · exact (Changes.one (.answer .done)).trans (hostWriteReg_changes h)
  · exact hostWriteData_changes (targetOf_data_le ht) h

theorem hostEvent_changes {e : HostEvent} {s t : State} (h : hostEvent e s = .next t) :
    Changes s t := by
  cases e with
  | read addr w => exact hostRead_changes h
  | write addr w value => exact hostWrite_changes h
  | clean addr size => cases h; exact (hostClean_changes _ s).tail (.answer _)
  | invalidate addr size => cases h; exact (hostInvalidate_changes _ s).tail (.answer _)
  | hardReset => cases h; exact (Changes.one (.answer _)).trans (resetBlock_changes _)

/-- A step is a chain of elementary changes. -/
theorem step_changes {s t : State} (h : step s = .next t) : Changes s t := by
  obtain ⟨-, -, h'⟩ | ⟨r, hr, h'⟩ | ⟨e, rest, -, h'⟩ | ⟨ask, rest, -, -, h'⟩ |
    ⟨ask, rest, r, -, hr, h'⟩ := step_cases s <;> rw [h'] at h
  · cases h; exact .refl
  · exact endWith_changes hr h
  · exact (Changes.one (.event rest)).trans (hostEvent_changes h)
  · cases h; exact .one (.event rest)
  · exact (Changes.one (.event rest)).trans (engineTurn_changes (s := { s with pending := rest }) hr h)

/-- What every elementary change keeps, every step keeps. -/
theorem step_keeps {P : State → Prop} (hP : ∀ {s t : State}, Change s t → P s → P t) {s t : State}
    (hs : P s) (h : step s = .next t) : P t := by
  have hch := step_changes h
  clear h
  induction hch with
  | refl => exact hs
  | tail _ hc ih => exact hP hc ih

end Sys2Proof.Machine
end

section
/-! PROOFS. The STATUS invariant (10_state R37, 60_exceptions R401), one lemma per way a STATUS field
changes. -/

namespace Sys2Proof.Machine

theorem statusGood_iff (s : State) : s.statusGood = true ↔
    s.status.busy = s.running.isSome ∧ (s.status.busy = true → s.status.done = false) ∧
      (s.status.busy = true → s.status.err = false) ∧ (s.status.done = true → s.status.err = false) ∧
      (s.status.err = true ↔ s.status.errCode ≠ .none) := by
  simp only [State.statusGood, Bool.and_eq_true, beq_iff_eq, Bool.not_eq_true', and_assoc,
    Bool.and_eq_false_imp]
  rw [Bool.eq_iff_iff (b := s.status.errCode != .none), bne_iff_ne]

/-- A start-time check never reports NONE (60_exceptions R401). -/
theorem clampRangeError_code {lo hi : Int} {g : Regs} {e : ErrCode × Word}
    (h : clampRangeError lo hi g = some e) : e = (.clampRange, 0#32) := by
  unfold clampRangeError at h
  split at h
  · cases h
  · exact (Option.some.inj h).symm

theorem addrRangeError_code {regions : List Region} {e : ErrCode × Word}
    (h : addrRangeError regions = some e) : e.1 = .addrRange := by
  simp only [addrRangeError, Option.map_eq_some_iff] at h
  obtain ⟨r, -, rfl⟩ := h
  rfl

theorem convShapeError_code {g : Regs} {e : ErrCode × Word} (h : convShapeError g = some e) :
    e.1 ≠ .none ∧ e.2 = 0#32 := by
  unfold convShapeError at h
  split at h
  · cases h; simp
  · split at h
    · cases h; simp
    · split at h
      · cases h; simp
      · split at h <;> cases h
        simp

/-- A start-time check reports a code other than NONE, and an address only with ADDR_RANGE (60_exceptions
R401, R403). -/
theorem startCheck_code {i : Instr} {s : State} {e : ErrCode × Word} (h : startCheck i s = some e) :
    e.1 ≠ .none ∧ (e.1 = .addrRange ∨ e.2 = 0#32) := by
  have hclamp : ∀ {lo hi : Int}, clampRangeError lo hi s.regs = some e →
      e.1 ≠ .none ∧ (e.1 = .addrRange ∨ e.2 = 0#32) := fun h => by
    simp [clampRangeError_code h]
  have haddr : ∀ {regions : List Region}, addrRangeError regions = some e →
      e.1 ≠ .none ∧ (e.1 = .addrRange ∨ e.2 = 0#32) := fun h => by
    simp [addrRangeError_code h]
  have hconv : ∀ {v : Variant} {bias : Bool}, convCheck v bias s = some e →
      e.1 ≠ .none ∧ (e.1 = .addrRange ∨ e.2 = 0#32) := fun h => by
    simp only [convCheck, Option.or_eq_some_iff] at h
    obtain h | ⟨-, h | ⟨-, h⟩⟩ := h
    · exact hclamp h
    · exact (convShapeError_code h).imp_right .inr
    · exact haddr h
  cases i with
  | convS8 bias => exact hconv h
  | convS16 bias => exact hconv h
  | dotS8 clr => exact haddr h
  | dotS16 clr => exact haddr h
  | rqS8 => exact hclamp h
  | rqS16 => exact hclamp h
  | memcpy => exact haddr h

/-- Each way STATUS changes keeps BUSY, DONE and ERR exclusive and ERR_CODE in step with ERR. -/
theorem Change.statusGood {s t : State} (h : Change s t) (hs : s.statusGood = true) :
    t.statusGood = true := by
  rw [statusGood_iff] at hs ⊢
  obtain ⟨hb, hd, he, hde, hc⟩ := hs
  cases h with
  | event | answer | draw | store | uncache | ignore | enables | register | abandon | abandonRaced =>
    exact ⟨hb, hd, he, hde, hc⟩
  | race r hr | turn _ r hr | stall r hr =>
    exact ⟨by simpa [hr] using hb, hd, he, hde, hc⟩
  | acknowledge w =>
    cases hw : w.getLsbD 2 <;> simp_all
  | illegal => simp
  | startError i e _ hc => simpa using (startCheck_code hc).1
  | begin => simp
  | complete r hr =>
    have hbusy : s.status.busy = true := by simp [hb, hr]
    simpa [he hbusy] using hc
  | busError r c hr =>
    have hbusy : s.status.busy = true := by simp [hb, hr]
    simp [hd hbusy]
  | reset => simp [Status.reset]

/-- Settles O58: every elementary change of a step keeps the STATUS invariant. -/
theorem stepKeepsStatusExclusive : Obligations.StepKeepsStatusExclusive :=
  fun _ _ hs h => step_keeps Change.statusGood hs h

end Sys2Proof.Machine
end

section
/-! PROOFS. The invariant of the machine: memory in canonical form and inside its 2^32 bytes (10_state R58),
ERR_ADDR (R38, 60_exceptions R403), and the running command, which is the one CMD holds and writes only its
region (40_conv R218, 43_memcpy R314). -/

namespace Sys2Proof.Machine

open Claim

/-! ## The bytes a running command stores lie in its write region -/

/-- The ADDR_RANGE check passes exactly when every region ends inside the data space (20_memory R108). -/
theorem addrRangeError_eq_none {regions : List Region} :
    addrRangeError regions = none ↔ ∀ r ∈ regions, r.base + r.size ≤ 2 ^ 32 := by
  simp [addrRangeError]

theorem convCheck_eq_none {v : Variant} {bias : Bool} {s : State} (h : convCheck v bias s = none) :
    convShapeError s.regs = none ∧ ∀ r ∈ convRegions v bias s.regs, r.base + r.size ≤ 2 ^ 32 := by
  simp only [convCheck, Option.or_eq_none_iff, addrRangeError_eq_none] at h
  exact h.2

theorem convShapeError_eq_none {g : Regs} (h : convShapeError g = none) : g.outN = g.inN := by
  unfold convShapeError at h
  split at h
  · cases h
  · split at h
    · cases h
    · split at h
      · cases h
      · split at h
        · cases h
        next hn => exact not_not.mp hn

/-- A command that has passed its checks has a write region inside the data space. -/
theorem writeRegions_le {i : Instr} {s : State} (h : startCheck i s = none) :
    ∀ r ∈ writeRegions i s.regs, r.base + r.size ≤ 2 ^ 32 := by
  have hconv : ∀ {v : Variant} {bias : Bool}, convCheck v bias s = none →
      ∀ r ∈ [convOut v s.regs], r.base + r.size ≤ 2 ^ 32 := fun h r hr =>
    (convCheck_eq_none h).2 r (List.mem_append.mpr (.inr hr))
  cases i with
  | convS8 bias => exact hconv h
  | convS16 bias => exact hconv h
  | dotS8 | dotS16 | rqS8 | rqS16 => simp [writeRegions]
  | memcpy => exact fun r hr => addrRangeError_eq_none.mp h r (List.mem_cons_of_mem _ hr)

theorem writes_lt {i : Instr} {s : State} {a : Nat} (h : startCheck i s = none) (ha : Writes i s a) :
    a < 2 ^ 32 := by
  obtain ⟨w, hw, -, hlt⟩ := ha
  exact hlt.trans_le (writeRegions_le h w hw)

/-- The bytes of an output element lie in OUT (40_conv R212). -/
theorem convCells_mem_convOut {v : Variant} {bias : Bool} {s : State} {e : Nat} {acc : BitVec 64}
    (hn : s.regs.outN = s.regs.inN) (he : e < convCount s.regs) :
    ∀ c ∈ convCells v bias s e acc,
      (convOut v s.regs).base ≤ c.1 ∧ c.1 < (convOut v s.regs).base + (convOut v s.regs).size := by
  intro c hc
  obtain ⟨k, hk, rfl⟩ := List.mem_map.mp hc
  have hk : k < v.es := List.mem_range.mp hk
  have hsize : (convOut v s.regs).size = v.es * convCount s.regs := by
    simp [convOut, convCount, hn, Nat.mul_assoc]
  have hmul : v.es * (e + 1) ≤ v.es * convCount s.regs := Nat.mul_le_mul_left _ he
  rw [hsize]
  simp only [convOut, outElemAddr]
  rw [Nat.mul_succ] at hmul
  omega

/-- What is left of a convolution stores the bytes already issued and bytes of OUT. -/
theorem convWork_cells {v : Variant} {bias : Bool} {r : Running} {s : State}
    (hn : s.regs.outN = s.regs.inN) : ∀ c ∈ workCells (convWork v bias r s), c ∈ r.writes ∨
      ((convOut v s.regs).base ≤ c.1 ∧ c.1 < (convOut v s.regs).base + (convOut v s.regs).size) := by
  intro c hc
  simp only [workCells, convWork, List.flatMap_cons, List.mem_append] at hc
  refine hc.imp_right fun hc => ?_
  split at hc
  next he =>
    simp only [List.flatMap_cons, List.mem_append, List.mem_flatMap, List.mem_map] at hc
    obtain hc | ⟨-, ⟨e, hmem, rfl⟩, hc⟩ := hc
    · exact convCells_mem_convOut hn he c hc
    · have := List.mem_range'_1.mp hmem
      exact convCells_mem_convOut hn (by omega) c hc
  · simp at hc

/-- Bytes of the copy below its length lie in DST (43_memcpy R312). -/
theorem copyUnit_cells {s : State} {j : Nat} (hj : j < s.regs.cpyLen.toNat) :
    ∀ c ∈ (copyUnit s j).cells, Writes .memcpy s c.1 := by
  intro c hc
  obtain rfl := List.mem_singleton.mp hc
  exact ⟨copyDest s.regs, List.mem_singleton.mpr rfl, by simp [copyDest], by simpa [copyDest] using hj⟩

/-- What is left of a running command stores the bytes already issued and bytes of its write region. -/
theorem workLeft_cells {r : Running} {s : State} (h : startCheck r.cmd s = none) :
    ∀ c ∈ workCells (workLeft r s), c ∈ r.writes ∨ Writes r.cmd s c.1 := by
  intro c hc
  have hconv : ∀ {v : Variant} {bias : Bool}, convCheck v bias s = none →
      c ∈ workCells (convWork v bias r s) → c ∈ r.writes ∨ ∃ w ∈ [convOut v s.regs],
        w.base ≤ c.1 ∧ c.1 < w.base + w.size := fun h hc => by
    simpa using convWork_cells (convShapeError_eq_none (convCheck_eq_none h).1) c hc
  have hdot : ∀ {v : Variant}, c ∉ workCells (dotWork v r s) := by
    simp [workCells, dotWork, dotUnit]
  cases hcmd : r.cmd <;> simp only [workLeft, hcmd] at hc h
  case convS8 | convS16 => exact hconv h hc
  case dotS8 | dotS16 => exact absurd hc hdot
  case rqS8 | rqS16 => simp [workCells] at hc
  case memcpy =>
    simp only [workCells, copyWork, List.flatMap_cons, List.mem_append, List.mem_flatMap,
      List.mem_map] at hc
    refine hc.imp_right ?_
    rintro ⟨-, ⟨j, hj, rfl⟩, hc⟩
    have := List.mem_range'_1.mp hj
    exact copyUnit_cells (by omega) c hc

theorem granted_le {ask req vlmax : Nat} (h : 1 ≤ req) : granted ask req vlmax ≤ req := by
  unfold granted
  omega

theorem convTurn_writes {v : Variant} {bias : Bool} {ask : Nat} {r : Running} {s : State}
    (hn : s.regs.outN = s.regs.inN) : ∀ c ∈ (convTurn v bias ask r s).writes, c ∈ r.writes ∨
      ((convOut v s.regs).base ≤ c.1 ∧ c.1 < (convOut v s.regs).base + (convOut v s.regs).size) := by
  intro c hc
  unfold convTurn at hc
  split at hc
  next he =>
    split at hc
    · split at hc <;> exact .inl hc
    · exact (List.mem_append.mp hc).imp_right (convCells_mem_convOut hn he c)
  · exact .inl hc

theorem copyTurn_writes {ask : Nat} {r : Running} {s : State} :
    ∀ c ∈ (copyTurn ask r s).writes, c ∈ r.writes ∨ Writes .memcpy s c.1 := by
  intro c hc
  unfold copyTurn at hc
  split at hc
  next hlt =>
    refine (List.mem_append.mp hc).imp_right fun hc => ?_
    simp only [workCells, List.mem_flatMap, List.mem_map] at hc
    obtain ⟨-, ⟨j, hj, rfl⟩, hc⟩ := hc
    have hj := (List.mem_range'_1.mp hj).2
    have hle := granted_le (ask := ask) (req := s.regs.cpyLen.toNat - r.chan)
      (vlmax := s.params.vlb.toNat) (by omega)
    exact copyUnit_cells (by omega) c hc
  · exact .inl hc

theorem dotTurn_writes (v : Variant) (ask : Nat) (r : Running) (s : State) :
    (dotTurn v ask r s).writes = r.writes := by
  unfold dotTurn
  split <;> rfl

/-- An internal step issues only writes to the write region. -/
theorem turnRunning_writes {ask : Nat} {r : Running} {s : State} (h : startCheck r.cmd s = none) :
    ∀ c ∈ (turnRunning ask r s).writes, c ∈ r.writes ∨ Writes r.cmd s c.1 := by
  intro c hc
  have hconv : ∀ {v : Variant} {bias : Bool}, convCheck v bias s = none →
      c ∈ (convTurn v bias ask r s).writes → c ∈ r.writes ∨ ∃ w ∈ [convOut v s.regs],
        w.base ≤ c.1 ∧ c.1 < w.base + w.size := fun h hc => by
    simpa using convTurn_writes (convShapeError_eq_none (convCheck_eq_none h).1) c hc
  cases hcmd : r.cmd <;> simp only [turnRunning, hcmd] at hc h
  case convS8 | convS16 => exact hconv h hc
  case dotS8 | dotS16 => exact .inl (by rwa [dotTurn_writes] at hc)
  case rqS8 | rqS16 => exact .inl hc
  case memcpy => exact copyTurn_writes c hc

/-- An internal step goes on with the same command. -/
@[simp] theorem turnRunning_cmd (ask : Nat) (r : Running) (s : State) :
    (turnRunning ask r s).cmd = r.cmd := by
  have hconv : ∀ v bias, (convTurn v bias ask r s).cmd = r.cmd := fun v bias => by
    unfold convTurn
    split
    · split
      · split <;> rfl
      · rfl
    · rfl
  have hdot : ∀ v, (dotTurn v ask r s).cmd = r.cmd := fun v => by
    unfold dotTurn
    split <;> rfl
  have hcopy : (copyTurn ask r s).cmd = r.cmd := by
    unfold copyTurn
    split <;> rfl
  unfold turnRunning
  split
  · exact hconv _ _
  · exact hconv _ _
  · exact hdot _
  · exact hdot _
  · rfl
  · rfl
  · exact hcopy

/-! ## A decoded word is the word of its command -/

/-- A bit of a word is the field of length 1 there. -/
theorem ofBool_getLsbD (w : Word) (k : Nat) : BitVec.ofBool (w.getLsbD k) = w.extractLsb' k 1 := by
  rw [BitVec.getLsbD_eq_extractLsb']
  generalize w.extractLsb' k 1 = b
  revert b
  decide

/-- A word is its fields (30_encoding R150). -/
theorem fields_append (w : Word) :
    reservedOf w ++ BitVec.ofBool (accClrOf w) ++ BitVec.ofBool (biasEnOf w) ++ opcodeOf w = w := by
  simp only [reservedOf, accClrOf, biasEnOf, opcodeOf, ofBool_getLsbD]
  rw [BitVec.extractLsb'_append_extractLsb'_eq_extractLsb' (by decide),
    BitVec.extractLsb'_append_extractLsb'_eq_extractLsb' (by decide),
    BitVec.extractLsb'_append_extractLsb'_eq_extractLsb' (by decide)]
  exact BitVec.extractLsb'_eq_self

theorem withBias_ok {w : Word} {f : Bool → Instr} {i : Instr} (h : withBias w f = .ok i) :
    accClrOf w = false ∧ i = f (biasEnOf w) := by
  unfold withBias at h
  split at h <;> simp_all

theorem withClr_ok {w : Word} {f : Bool → Instr} {i : Instr} (h : withClr w f = .ok i) :
    biasEnOf w = false ∧ i = f (accClrOf w) := by
  unfold withClr at h
  split at h <;> simp_all

theorem withNone_ok {w : Word} {i j : Instr} (h : withNone w j = .ok i) :
    biasEnOf w = false ∧ accClrOf w = false ∧ i = j := by
  unfold withNone at h
  split at h
  · cases h
  · split at h <;> simp_all

/-- A word that decodes to a command has the command's fields. -/
theorem fields_of_decode {w : Word} {i : Instr} (h : decode w = .ok i) :
    reservedOf w = 0#22 ∧ accClrOf w = i.accClr ∧ biasEnOf w = i.biasEn ∧ opcodeOf w = i.opcode := by
  unfold decode at h
  split_ifs at h with hr h1 h2 h3 h4 h5 h6 h7
  · obtain ⟨hc, rfl⟩ := withBias_ok h; exact ⟨not_not.mp hr, hc, rfl, h1⟩
  · obtain ⟨hc, rfl⟩ := withBias_ok h; exact ⟨not_not.mp hr, hc, rfl, h2⟩
  · obtain ⟨hb, rfl⟩ := withClr_ok h; exact ⟨not_not.mp hr, rfl, hb, h3⟩
  · obtain ⟨hb, rfl⟩ := withClr_ok h; exact ⟨not_not.mp hr, rfl, hb, h4⟩
  · obtain ⟨hb, hc, rfl⟩ := withNone_ok h; exact ⟨not_not.mp hr, hc, hb, h5⟩
  · obtain ⟨hb, hc, rfl⟩ := withNone_ok h; exact ⟨not_not.mp hr, hc, hb, h6⟩
  · obtain ⟨hb, hc, rfl⟩ := withNone_ok h; exact ⟨not_not.mp hr, hc, hb, h7⟩

/-- A word that decodes to a command is the word the command encodes to (30_encoding R153, R158). -/
theorem encode_of_decode {w : Word} {i : Instr} (h : decode w = .ok i) : encode i = w := by
  obtain ⟨hr, hc, hb, ho⟩ := fields_of_decode h
  rw [encode, ← hr, ← hc, ← hb, ← ho, fields_append]

end Sys2Proof.Machine
end

section
/-! PROOFS. The invariant of the machine, part by part, over the elementary changes of a step. -/

namespace Sys2Proof.Machine

open Claim

/-! ## The running command -/

theorem runningGood_iff (s : State) : s.runningGood = true ↔ ∀ r, s.running = some r →
    encode r.cmd = s.regs.cmd ∧ startCheck r.cmd s = none ∧ startUndefined r.cmd s = none ∧
      ∀ c ∈ r.writes, Writes r.cmd s c.1 := by
  unfold State.runningGood
  cases s.running with
  | none => simp
  | some r => simp [Region.covers, and_assoc]

theorem writeRegions_errAddr (i : Instr) (g : Regs) (a : Word) :
    writeRegions i { g with errAddr := a } = writeRegions i g := by
  cases i <;> rfl

/-- A good command stays good while its operands stay and it issues writes only to its region. -/
theorem runningGood_of_step {s t : State} {a : Word} (hs : s.runningGood = true)
    (hregs : t.regs = { s.regs with errAddr := a }) (hparams : t.params = s.params)
    (hrun : ∀ r', t.running = some r' → ∃ r, s.running = some r ∧ r'.cmd = r.cmd ∧
      ∀ c ∈ r'.writes, c ∈ r.writes ∨ Writes r.cmd s c.1) : t.runningGood = true := by
  rw [runningGood_iff] at hs ⊢
  intro r' hr'
  obtain ⟨r, hr, hcmd, hw⟩ := hrun r' hr'
  obtain ⟨hc, hchk, hund, hwrites⟩ := hs r hr
  rw [hcmd, startCheck_congr hregs, startUndefined_congr hregs hparams]
  refine ⟨by rw [hc, hregs], hchk, hund, fun c hmem => ?_⟩
  rw [Writes, hregs, writeRegions_errAddr]
  exact (hw c hmem).elim (hwrites c) id

theorem Change.runningGood {s t : State} (h : Change s t) (hst : s.statusGood = true)
    (hs : s.runningGood = true) : t.runningGood = true := by
  have hsame : ∀ {t : State} {a : Word}, t.regs = { s.regs with errAddr := a } → t.params = s.params →
      t.running = s.running → t.runningGood = true := fun hregs hp hr =>
    runningGood_of_step hs hregs hp fun r h => ⟨r, hr ▸ h, rfl, fun _ => .inl⟩
  have hnone : ∀ {t : State}, t.running = none → t.runningGood = true := fun hr => by
    simp [State.runningGood, hr]
  cases h with
  | event | answer | draw | store | uncache | acknowledge | ignore | enables | abandon | abandonRaced =>
    exact hsame rfl rfl rfl
  | race r hr | stall r hr =>
    refine runningGood_of_step hs (a := s.regs.errAddr) rfl rfl fun r' h => ⟨r, hr, ?_⟩
    cases h
    exact ⟨rfl, fun _ => .inl⟩
  | turn ask r hr =>
    refine runningGood_of_step hs (a := s.regs.errAddr) rfl rfl fun r' h => ⟨r, hr, ?_⟩
    cases h
    exact ⟨turnRunning_cmd ask r s, turnRunning_writes ((runningGood_iff s).mp hs r hr).2.1⟩
  | register r w hb =>
    have hidle := ((statusGood_iff s).mp hst).1
    exact hnone (by simpa [hb] using hidle)
  | begin i _ hd hc hu =>
    rw [runningGood_iff]
    rintro r ⟨⟩
    exact ⟨encode_of_decode hd, (startCheck_congr (s := s) rfl).trans hc,
      (startUndefined_congr (s := s) rfl rfl).trans hu, by simp [Running.start]⟩
  | illegal | startError | complete | busError | reset => exact hnone rfl

/-! ## ERR_ADDR -/

theorem errAddrGood_iff (s : State) : s.errAddrGood = true ↔
    s.status.errCode = .addrRange ∨ s.status.errCode = .busError ∨ s.regs.errAddr = 0#32 := by
  simp [State.errAddrGood, or_assoc]

/-- A register write leaves ERR_ADDR alone (10_state R38). -/
@[simp] theorem writeReg_errAddr (r : Reg) (w : Word) (g : Regs) :
    (writeReg r w g).errAddr = g.errAddr := by
  cases r <;> rfl

/-- The results of a command leave ERR_ADDR alone (10_state R54). -/
@[simp] theorem resultRegs_errAddr (r : Running) (s : State) :
    (resultRegs r s).errAddr = s.regs.errAddr := by
  unfold resultRegs
  cases r.cmd <;> rfl

theorem Change.errAddrGood {s t : State} (h : Change s t) (hs : s.errAddrGood = true) :
    t.errAddrGood = true := by
  rw [errAddrGood_iff] at hs ⊢
  cases h with
  | event | answer | draw | store | uncache | ignore | enables | abandon | abandonRaced | race | turn |
      stall =>
    exact hs
  | acknowledge w =>
    cases hw : w.getLsbD 2
    · simpa only [writeStatus_status, writeStatus_regs, Status.acknowledged_errCode, hw,
        Bool.false_eq_true, if_false] using hs
    · exact .inr (.inr (by simp only [writeStatus_regs, hw, if_true]))
  | register => simpa using hs
  | illegal | begin | reset => simp [Regs.reset]
  | startError i e _ hc =>
    exact (startCheck_code hc).2.elim .inl fun ha => .inr (.inr ha)
  | complete => simpa using hs
  | busError => simp

/-! ## Memory -/

theorem Memory.mem_writeCells {m : Memory} {cs : List Host.Cell} {d : Host.Cell}
    (h : d ∈ m.writeCells cs) : d ∈ m ∨ d ∈ cs := by
  induction cs generalizing m with
  | nil => exact .inl h
  | cons c cs ih =>
    obtain h | h := ih h
    · exact (Memory.mem_write h).imp_right fun h => by simp [h]
    · exact .inr (List.mem_cons_of_mem _ h)

theorem mem_insertAddr {l : List Nat} {a b : Nat} (h : b ∈ insertAddr l a) : b ∈ l ∨ b = a := by
  induction l with
  | nil => exact .inr (List.mem_singleton.mp h)
  | cons c rest ih =>
    unfold insertAddr at h
    split at h
    · exact (List.mem_cons.mp h).symm
    · split at h
      · exact .inl h
      · rcases List.mem_cons.mp h with rfl | h
        · exact .inl List.mem_cons_self
        · exact (ih h).imp_left (List.mem_cons_of_mem _)

theorem mem_foldl_insertAddr {l as : List Nat} {b : Nat} (h : b ∈ as.foldl insertAddr l) :
    b ∈ l ∨ b ∈ as := by
  induction as generalizing l with
  | nil => exact .inl h
  | cons a as ih =>
    obtain h | h := ih h
    · exact (mem_insertAddr h).imp_right fun h => by simp [h]
    · exact .inr (List.mem_cons_of_mem _ h)

theorem elementCells_lt {a n : Nat} {x : Int} (hle : a + n ≤ 2 ^ 32) :
    ∀ b ∈ (elementCells a n x).map (·.1), b < 2 ^ 32 := by
  rw [elementCells_addrs]
  intro b hb
  obtain ⟨k, hk, rfl⟩ := List.mem_map.mp hb
  have := List.mem_range.mp hk
  omega

/-- An abort stores only bytes of the work. -/
theorem abortedCells_subset (p : Params) (k : Nat) (work : List WorkUnit) :
    abortedCells p k work ⊆ workCells work := by
  intro c hc
  obtain ⟨u, hu, hc⟩ := List.mem_flatMap.mp hc
  refine List.mem_flatMap.mpr ⟨u, hu, ?_⟩
  split at hc
  · exact List.mem_of_mem_filter hc
  · cases hc

theorem undefinedCells_writes {i : Instr} {s : State} {k : Nat} :
    ∀ c ∈ undefinedCells k (writeRegions i s.regs), Writes i s c.1 := by
  intro c hc
  obtain ⟨q, hq, hc⟩ := List.mem_flatMap.mp hc
  obtain ⟨j, hj, rfl⟩ := List.mem_map.mp hc
  exact ⟨q, hq, Nat.le_add_right _ _, Nat.add_lt_add_left (List.mem_range.mp hj) _⟩

/-- The addresses of a list of bytes are inside the data space. -/
abbrev InDataSpace (cells : List Host.Cell) : Prop := ∀ c ∈ cells, c.1 < 2 ^ 32

theorem workLeft_inDataSpace {r : Running} {s : State} (hr : s.running = some r)
    (hs : s.runningGood = true) : InDataSpace (workCells (workLeft r s)) := by
  obtain ⟨-, hc, -, hw⟩ := (runningGood_iff s).mp hs r hr
  exact fun c hmem => writes_lt hc ((workLeft_cells hc c hmem).elim (hw c) id)

/-- What a change does to memory is to store bytes, of the data space when the invariant holds. -/
theorem Change.mem {s t : State} (h : Change s t) : ∃ cells, t.mem = s.mem.writeCells cells ∧
    (s.runningGood = true → (∀ a ∈ s.unclean, a < 2 ^ 32) → InDataSpace cells) := by
  have hsame : ∀ {t : State}, t.mem = s.mem → ∃ cells, t.mem = s.mem.writeCells cells ∧
      (s.runningGood = true → (∀ a ∈ s.unclean, a < 2 ^ 32) → InDataSpace cells) := fun h =>
    ⟨[], h, fun _ _ => by simp⟩
  cases h with
  | event | answer | draw | race | acknowledge | ignore | enables | register | illegal | startError |
      begin | turn | stall | reset =>
    exact hsame rfl
  | store a n x hle => exact ⟨_, rfl, fun _ _ c hc => elementCells_lt hle _ (List.mem_map_of_mem hc)⟩
  | uncache lost _ _ hlost =>
    refine ⟨_, rfl, fun _ hu c hc => ?_⟩
    obtain ⟨a, ha, rfl⟩ := List.mem_map.mp hc
    exact hu a (hlost ha)
  | complete r hr => exact ⟨_, rfl, fun hs _ => workLeft_inDataSpace hr hs⟩
  | busError r _ hr | abandon r hr =>
    exact ⟨_, rfl, fun hs _ c hc => workLeft_inDataSpace hr hs c (abortedCells_subset _ _ _ hc)⟩
  | abandonRaced r hr =>
    exact ⟨_, rfl, fun hs _ c hc =>
      writes_lt ((runningGood_iff s).mp hs r hr).2.1 (undefinedCells_writes c hc)⟩

theorem Change.mem_wf {s t : State} (h : Change s t) (hs : s.mem.wf = true) : t.mem.wf = true := by
  obtain ⟨cells, hm, -⟩ := h.mem
  rw [hm]
  exact Memory.writeCells_wf _ _ hs

/-- Settles O56: every elementary change of a step stores bytes one by one, which keeps the form. -/
theorem stepKeepsMemoryCanonical : Obligations.StepKeepsMemoryCanonical :=
  fun _ _ hs h => step_keeps Change.mem_wf hs h

theorem Change.unclean {s t : State} (h : Change s t) (hs : ∀ a ∈ s.unclean, a < 2 ^ 32) :
    ∀ a ∈ t.unclean, a < 2 ^ 32 := by
  cases h with
  | event | answer | draw | race | acknowledge | ignore | enables | register | illegal | startError |
      begin | turn | stall | reset | complete | busError | abandon | abandonRaced =>
    exact hs
  | uncache _ _ _ _ hsub => exact fun a ha => hs a (hsub ha)
  | store a n x hle =>
    intro b hb
    simp only [hostStore] at hb
    split at hb
    · exact hs b hb
    · exact (mem_foldl_insertAddr hb).elim (hs b) (elementCells_lt hle b)

theorem memoryGood_iff (s : State) : s.memoryGood = true ↔
    s.mem.wf = true ∧ InDataSpace s.mem ∧ ∀ a ∈ s.unclean, a < 2 ^ 32 := by
  simp only [State.memoryGood, Bool.and_eq_true, List.all_eq_true, decide_eq_true_eq, and_assoc]

theorem Change.memoryGood {s t : State} (h : Change s t) (hr : s.runningGood = true)
    (hs : s.memoryGood = true) : t.memoryGood = true := by
  rw [memoryGood_iff] at hs ⊢
  obtain ⟨hwf, hmem, hu⟩ := hs
  obtain ⟨cells, hm, hcells⟩ := h.mem
  refine ⟨h.mem_wf hwf, fun c hc => ?_, h.unclean hu⟩
  rw [hm] at hc
  exact (Memory.mem_writeCells hc).elim (hmem c) (hcells hr hu c)

/-! ## The whole invariant -/

theorem Change.params {s t : State} (h : Change s t) : t.params = s.params := by
  cases h <;> rfl

theorem good_iff (s : State) : s.good = true ↔ s.memoryGood = true ∧ s.statusGood = true ∧
    s.errAddrGood = true ∧ s.runningGood = true ∧ s.params.wf = true := by
  simp only [State.good, Bool.and_eq_true, and_assoc]

theorem Change.good {s t : State} (h : Change s t) (hs : s.good = true) : t.good = true := by
  rw [good_iff] at hs ⊢
  obtain ⟨hm, hst, he, hr, hp⟩ := hs
  exact ⟨h.memoryGood hr hm, h.statusGood hst, h.errAddrGood he, h.runningGood hst hr, h.params ▸ hp⟩

/-- Settles O59: every elementary change of a step keeps each part of the invariant. -/
theorem stepKeepsTheInvariant : Obligations.StepKeepsTheInvariant :=
  fun _ _ hs h => step_keeps Change.good hs h

end Sys2Proof.Machine
end

section
/-! PROOFS. Accesses of the host to the register block (10_state R35 to R53): where an access goes, and what
the step that takes it does. -/

namespace Sys2Proof.Machine

open Claim

/-! ## The event of a step, and its target -/

/-- A step takes a delivered event. -/
theorem step_delivered {e : HostEvent} {s : State} {rest : List Input} (h : Delivered e s rest) :
    step s = hostEvent e { s with pending := rest } := by
  obtain ⟨hp, hr⟩ | hp := h
  · exact step_host s e rest hp hr
  · exact step_during s e rest hp

theorem base_dvd {p : Params} (hp : p.wf = true) : p.engineBase.toNat % 0x100 = 0 := by
  simp only [Params.wf, Params.baseAligned, Bool.and_eq_true, beq_iff_eq] at hp
  exact hp.1

/-- The block does not wrap around the address space (00_scope R9). -/
theorem toNat_blockAddr {p : Params} (hp : p.wf = true) {off : Nat} (ho : off < 0x100) :
    (p.engineBase + BitVec.ofNat 32 off).toNat = p.engineBase.toNat + off := by
  have := base_dvd hp
  have := p.engineBase.isLt
  rw [BitVec.toNat_add, BitVec.toNat_ofNat]
  omega

/-- An access with a byte in the block touches it. -/
theorem overlaps_block {p : Params} {a n : Nat} (hn : 0 < n) (hlo : p.engineBase.toNat < a + n)
    (hhi : a < p.engineBase.toNat + 0x100) : Region.overlaps ⟨a, n⟩ (blockRegion p) = true :=
  decide_eq_true ⟨hn, Nat.zero_lt_succ _, hhi, hlo⟩

/-- An aligned 32-bit access at an offset of the block reaches the register there, or a reserved offset. -/
theorem targetOf_block {p : Params} (hp : p.wf = true) {off : Nat} (ho : off < 0x100)
    (h4 : off % 4 = 0) : targetOf p (p.engineBase + BitVec.ofNat 32 off) .w32 =
      (regAt off).elim .reserved .reg := by
  have := base_dvd hp
  have := p.engineBase.isLt
  have hover : Region.overlaps ⟨p.engineBase.toNat + off, Width.w32.bytes⟩ (blockRegion p) = true :=
    overlaps_block (by decide) (by simp only [Width.bytes]; omega) (by omega)
  have hle : ¬ 2 ^ 32 < p.engineBase.toNat + off + Width.w32.bytes := by
    simp only [Width.bytes]
    omega
  unfold targetOf
  rw [toNat_blockAddr hp ho, if_neg hle, if_pos hover, if_pos ⟨rfl, by omega, by omega⟩,
    Nat.add_sub_cancel_left]
  cases regAt off <;> rfl

theorem regOffset_lt (r : Reg) : regOffset r < 0x100 ∧ regOffset r % 4 = 0 := by
  cases r <;> decide

theorem regAt_regOffset (r : Reg) : regAt (regOffset r) = some r := by
  cases r <;> rfl

theorem targetOf_reg {p : Params} (hp : p.wf = true) (r : Reg) :
    targetOf p (p.engineBase + BitVec.ofNat 32 (regOffset r)) .w32 = .reg r := by
  rw [targetOf_block hp (regOffset_lt r).1 (regOffset_lt r).2, regAt_regOffset]
  rfl

theorem targetOf_reserved {p : Params} (hp : p.wf = true) {off : Nat} (ho : off ∈ reservedOffsets) :
    targetOf p (p.engineBase + BitVec.ofNat 32 off) .w32 = .reserved := by
  have hall : ∀ off ∈ reservedOffsets, off < 0x100 ∧ off % 4 = 0 ∧ regAt off = none := by decide
  obtain ⟨hlt, h4, hnone⟩ := hall off ho
  rw [targetOf_block hp hlt h4, hnone]
  rfl

/-- An access that touches the block and is not 32-bit, or not aligned, has no target (10_state R50). -/
theorem targetOf_error {p : Params} (hp : p.wf = true) {addr : Word} {width : Width}
    (hlo : p.engineBase.toNat < addr.toNat + width.bytes)
    (hhi : addr.toNat < p.engineBase.toNat + 0x100) (hform : width ≠ .w32 ∨ addr.toNat % 4 ≠ 0) :
    targetOf p addr width = .error := by
  have hbase := base_dvd hp
  have hbytes : 0 < width.bytes := by cases width <;> decide
  have hnot : ¬ (width = .w32 ∧ p.engineBase.toNat ≤ addr.toNat ∧
      (addr.toNat - p.engineBase.toNat) % 4 = 0) := by
    rintro ⟨hw, hle, hal⟩
    exact hform.elim (absurd hw) fun h => h (by omega)
  unfold targetOf
  rw [if_pos (overlaps_block hbytes hlo hhi), if_neg hnot, ite_self]

/-! ## A step that reads or writes a register -/

theorem setWidth_64_32 (w : Word) : (w.setWidth 64).setWidth 32 = w := by
  rw [BitVec.setWidth_setWidth_of_le _ (by decide), BitVec.setWidth_eq]

theorem step_writeReg {s : State} {rest : List Input} {r : Reg} {w : Word} (hp : s.params.wf = true)
    (h : Delivered (writeEvent s r w) s rest) : step s = hostWriteReg r w (after s rest .done) := by
  rw [step_delivered h]
  simp only [hostEvent, writeEvent, hostWrite, targetOf_reg hp r, setWidth_64_32]
  rfl

theorem step_readReg {s : State} {rest : List Input} {r : Reg} (hp : s.params.wf = true)
    (h : Delivered (readEvent s r) s rest) :
    step s = .next (hostReadReg r { s with pending := rest }) := by
  rw [step_delivered h]
  simp only [hostEvent, readEvent, hostRead, targetOf_reg hp r]

/-! ## CTRL and STATUS -/

/-- CTRL reads as the two enables of the word written (10_state R35). -/
theorem ctrlWord_written (w : Word) : ctrlWord (Ctrl.written w) = w &&& 0x00000006#32 := by
  have hmask : (0x00000006#32 : Word) = 0#29 ++ 1#1 ++ 1#1 ++ 0#1 := by decide
  have hword : w = w.extractLsb' 3 29 ++ w.extractLsb' 2 1 ++ w.extractLsb' 1 1 ++ w.extractLsb' 0 1 := by
    rw [BitVec.extractLsb'_append_extractLsb'_eq_extractLsb' (by decide),
      BitVec.extractLsb'_append_extractLsb'_eq_extractLsb' (by decide),
      BitVec.extractLsb'_append_extractLsb'_eq_extractLsb' (by decide), BitVec.extractLsb'_eq_self]
  have hone : ∀ b : BitVec 1, b &&& 1#1 = b := by decide
  conv_rhs => rw [hmask, hword, BitVec.and_append, BitVec.and_append, BitVec.and_append, hone, hone,
    BitVec.and_zero, BitVec.and_zero]
  rw [ctrlWord, Ctrl.written, ofBool_getLsbD, ofBool_getLsbD]

/-- Settles O9: a CTRL write that is neither a reset nor a START stores its enables. -/
theorem ctrlWriteWithoutStartStoresTheEnables : Obligations.CtrlWriteWithoutStartStoresTheEnables := by
  intro s rest w hp hd hb hsrst hstart
  refine ⟨storeEnables w (after s rest .done), ?_, rfl, ctrlWord_written w⟩
  rw [step_writeReg hp hd]
  have hb' : (after s rest .done).status.busy = false := hb
  simp only [hostWriteReg, writeCtrl, hsrst, hstart, hb', Bool.false_eq_true, if_false]

/-- Settles O11: the step is `writeStatus`, which does not look at BUSY. -/
theorem statusWriteClearsByOnes : Obligations.StatusWriteClearsByOnes := by
  intro s rest w hp hd
  rw [step_writeReg hp hd]
  rfl

/-! ## Writes of the other registers -/

theorem hostWriteReg_busy {r : Reg} {w : Word} {s : State} (hb : s.status.busy = true)
    (hs : r ≠ .status) (hc : ¬ (r = .ctrl ∧ w.getLsbD 31 = true)) :
    hostWriteReg r w s = .next (ignoreWrite s) := by
  unfold hostWriteReg
  split
  · have hsrst : w.getLsbD 31 = false := by simpa using hc
    simp only [writeCtrl, hsrst, hb, Bool.false_eq_true, if_false, if_true]
  · exact absurd rfl hs
  · rw [if_pos hb]

theorem hostWriteReg_idle {r : Reg} {w : Word} {s : State} (hb : s.status.busy = false)
    (hc : r ≠ .ctrl) (hs : r ≠ .status) : hostWriteReg r w s = .next (poke r w s) := by
  unfold hostWriteReg
  split
  · exact absurd rfl hc
  · exact absurd rfl hs
  · simp only [hb, Bool.false_eq_true, if_false, poke]

/-- Settles O10: while BUSY = 1 the write only sets IGN. -/
theorem registerWriteWhileBusyIsDropped : Obligations.RegisterWriteWhileBusyIsDropped := by
  intro s rest r w hp hd hb hs hc
  rw [step_writeReg hp hd, hostWriteReg_busy (s := after s rest .done) hb hs hc]
  rfl

/-- A register write changes that register and no other (10_state R32). -/
theorem readReg_poke (r r' : Reg) (w : Word) (s : State) :
    readReg r' (poke r w s) = if r' = r then readReg r (poke r w s) else readReg r' s := by
  cases r <;> cases r' <;> rfl

theorem readReg_poke_ne {r r' : Reg} (w : Word) (s : State) (h : r' ≠ r) :
    readReg r' (poke r w s) = readReg r' s := by
  rw [readReg_poke, if_neg h]

theorem readReg_poke_word (w : Word) (s : State) : ∀ r ∈ wordRegs, readReg r (poke r w s) = w := by
  simp [wordRegs, readReg, poke, writeReg]

theorem readReg_poke_half (w : Word) (s : State) :
    ∀ r ∈ halfRegs, readReg r (poke r w s) = halfWord (lowHalf w) := by
  simp [halfRegs, readReg, poke, writeReg]

theorem poke_readOnly (w : Word) (s : State) : ∀ r ∈ readOnlyRegs, poke r w s = s := by
  simp [readOnlyRegs, poke, writeReg]

/-- A 16-bit register reads as the low half of the word written (10_state R41, R42). -/
theorem halfWord_lowHalf (w : Word) : halfWord (lowHalf w) = w &&& 0x0000FFFF#32 := by
  apply BitVec.eq_of_toNat_eq
  simp only [halfWord, lowHalf, BitVec.toNat_setWidth, BitVec.toNat_and]
  rw [Nat.mod_eq_of_lt (b := 2 ^ 32) (by omega)]
  exact (Nat.and_two_pow_sub_one_eq_mod _ 16).symm

/-- Settles O15, by the classes of 10_state R32. -/
theorem registerWriteStoresThatRegister : Obligations.RegisterWriteStoresThatRegister := by
  intro s rest r w hp hd hb hc hs
  have hread : ∀ r', readReg r' (after s rest .done) = readReg r' s := fun _ => rfl
  refine ⟨poke r w (after s rest .done), ?_, rfl, readReg_poke_word w _ r, fun h => ?_, fun h => ?_,
    fun r' hne => ?_⟩
  · rw [step_writeReg hp hd, hostWriteReg_idle (s := after s rest .done) hb hc hs]
  · rw [readReg_poke_half w _ r h, halfWord_lowHalf]
  · rw [poke_readOnly w _ r h, hread]
  · rw [readReg_poke_ne w _ hne, hread]

/-! ## Reads -/

theorem openWhileBusy_iff (r : Reg) : openWhileBusy r = true ↔
    r ∈ [Reg.accLo, .accHi, .resultLo, .resultHi, .errAddr] := by
  cases r <;> decide

/-- Settles O12: the read answers with the register, or with a free value where 10_state R52 leaves it open. -/
theorem registerReadHasNoSideEffect : Obligations.RegisterReadHasNoSideEffect := by
  intro s rest r hp hd
  rw [step_readReg hp hd]
  unfold hostReadReg
  split
  next hopen =>
    rw [Bool.and_eq_true, openWhileBusy_iff] at hopen
    exact ⟨fun h => absurd hopen h, _, _, rfl⟩
  next => exact ⟨fun _ => rfl, _, _, rfl⟩

/-! ## Reserved offsets and bits (10_state R49) -/

theorem readReg_half (s : State) : ∀ r ∈ halfRegs, ∃ h : Half, readReg r s = halfWord h := by
  simp [halfRegs, readReg]

theorem lowHalf_halfWord (h : Half) : lowHalf (halfWord h) = h := by
  rw [halfWord, lowHalf, BitVec.setWidth_setWidth_of_le _ (by decide), BitVec.setWidth_eq]

/-- A 16-bit register stores the low half of the word written. -/
theorem writeReg_half (w : Word) (g : Regs) :
    ∀ r ∈ halfRegs, writeReg r w g = writeReg r (halfWord (lowHalf w)) g := by
  simp [halfRegs, writeReg, lowHalf_halfWord]

theorem halfWord_reserved (h : Half) : fieldZero (halfWord h) 16 16 := by
  ext k hk
  simp [halfWord, BitVec.getElem_extractLsb']

theorem ctrlWord_reserved (c : Ctrl) : fieldZero (ctrlWord c) 0 1 ∧ fieldZero (ctrlWord c) 3 29 := by
  unfold fieldZero ctrlWord
  refine ⟨BitVec.extractLsb'_append_eq_right, ?_⟩
  iterate 2 rw [BitVec.extractLsb'_append_eq_of_le (by decide)]
  exact BitVec.extractLsb'_append_eq_left

theorem statusWord_reserved (st : Status) :
    fieldZero (statusWord st) 4 4 ∧ fieldZero (statusWord st) 16 16 := by
  unfold fieldZero statusWord
  constructor <;> iterate 4 rw [BitVec.extractLsb'_append_eq_of_le (by decide)]
  · exact BitVec.extractLsb'_append_eq_right
  · rw [BitVec.extractLsb'_append_eq_of_le (by decide)]
    exact BitVec.extractLsb'_append_eq_left

theorem capsWord_reserved (p : Params) : fieldZero (capsWord p) 24 8 := by
  unfold fieldZero capsWord
  iterate 2 rw [BitVec.extractLsb'_append_eq_of_le (by decide)]
  exact BitVec.extractLsb'_append_eq_left

theorem writeStatus_reserved (w : Word) (s : State) :
    writeStatus w s = writeStatus (w &&& 0x0000000E#32) s := by
  simp [writeStatus, Status.acknowledged]

theorem writeCtrl_reserved (w : Word) (s : State) :
    writeCtrl w s = writeCtrl (w &&& 0x80000007#32) s := by
  have henables : storeEnables (w &&& 0x80000007#32) s = storeEnables w s := by
    simp [storeEnables, Ctrl.written]
  simp [writeCtrl, henables]

/-- Settles O13: a reserved offset is a target of its own, and the reserved bits are constants of the words
read, which no write looks at. -/
theorem reservedOffsetsAndBitsReadZero : Obligations.ReservedOffsetsAndBitsReadZero := by
  refine ⟨fun s rest off value hp ho => ⟨fun hd => ?_, fun hd => ?_⟩, fun s => ?_, fun g w r hr => ?_,
    fun s w => ⟨writeStatus_reserved w s, writeCtrl_reserved w s⟩⟩
  · rw [step_delivered hd]
    simp only [hostEvent, hostRead, targetOf_reserved hp ho]
    rfl
  · rw [step_delivered hd]
    simp only [hostEvent, hostWrite, targetOf_reserved hp ho]
    rfl
  · refine ⟨fun r hr => ?_, (ctrlWord_reserved _).1, (ctrlWord_reserved _).2,
      (statusWord_reserved _).1, (statusWord_reserved _).2, capsWord_reserved _⟩
    obtain ⟨h, hh⟩ := readReg_half s r hr
    rw [hh]
    exact halfWord_reserved h
  · rw [writeReg_half w g r hr, halfWord_lowHalf]

/-- Settles O14: the access has no target, so it is answered with an error and at most marks a race. -/
theorem narrowOrMisalignedAccessIsAnError : Obligations.NarrowOrMisalignedAccessIsAnError := by
  intro s rest addr width value hp hlo hhi hform hd
  have ht := targetOf_error hp hlo hhi hform
  obtain ⟨touches, hstep⟩ : ∃ touches, step s = .next
      (strayAccess touches ⟨addr.toNat, width.bytes⟩ { s with pending := rest }) := by
    obtain hd | hd := hd <;> rw [step_delivered hd]
    · simp only [hostEvent, hostRead, ht]
      exact ⟨_, rfl⟩
    · simp only [hostEvent, hostWrite, ht]
      exact ⟨_, rfl⟩
  refine ⟨_, hstep, ?_⟩
  obtain h | ⟨r, hr, -, hout, h⟩ :=
    strayAccess_cases touches ⟨addr.toNat, width.bytes⟩ { s with pending := rest } <;> rw [h]
  · exact ⟨rfl, .inl rfl⟩
  · refine ⟨rfl, .inr ⟨?_, r, hr, rfl⟩⟩
    simp only [insideBlock, decide_eq_false_iff_not] at hout
    omega

end Sys2Proof.Machine
end

section
/-! PROOFS. What a command and its later steps leave alone (10_state R54, R51): the frame of the seven
commands, and the operands of a running command. -/

namespace Sys2Proof.Machine

open Claim

/-! ## Reading registers that an update leaves alone -/

/-- Every register but STATUS is read from the register file, the enables and the parameters. -/
theorem readReg_congr {r : Reg} {s t : State} (hr : r ≠ .status) (hregs : t.regs = s.regs)
    (hctrl : t.ctrl = s.ctrl) (hparams : t.params = s.params) : readReg r t = readReg r s := by
  cases r
  case status => exact absurd rfl hr
  all_goals simp only [readReg, hregs, hctrl, hparams]

theorem readReg_raiseError {r : Reg} (hs : r ≠ .status) (he : r ≠ .errAddr) (c : ErrCode) (a : Word)
    (s : State) : readReg r (raiseError c a s) = readReg r s := by
  cases r
  case status => exact absurd rfl hs
  case errAddr => exact absurd rfl he
  all_goals rfl

theorem readReg_setResult {r : Reg} (hr : r ∉ [Reg.resultLo, .resultHi]) (v : BitVec 64) (g : Regs)
    (s : State) :
    readReg r { s with regs := setResult v g } = readReg r { s with regs := g } := by
  cases r
  case resultLo | resultHi => simp at hr
  all_goals rfl

theorem readReg_setAcc {r : Reg} (hr : r ∉ [Reg.accLo, .accHi]) (v : BitVec 64) (g : Regs)
    (s : State) : readReg r { s with regs := setAcc v g } = readReg r { s with regs := g } := by
  cases r
  case accLo | accHi => simp at hr
  all_goals rfl

theorem readReg_dotResults {r : Reg} (hr : r ∉ [Reg.accLo, .accHi, .resultLo, .resultHi]) (v : Variant)
    (clr : Bool) (r₀ : Running) (s : State) :
    readReg r { s with regs := dotResults v clr r₀ s } = readReg r s := by
  rw [dotResults, readReg_setResult (by simp_all), readReg_setAcc (by simp_all)]

/-- The results of a command change the registers its column marks "w" and no other (10_state R54). -/
theorem readReg_resultRegs {r : Reg} {r₀ : Running} (hr : r ∉ resultOf r₀.cmd) (s : State) :
    readReg r { s with regs := resultRegs r₀ s } = readReg r s := by
  unfold resultRegs
  generalize r₀.cmd = i at hr ⊢
  cases i with
  | convS8 | convS16 => rfl
  | dotS8 | dotS16 => exact readReg_dotResults hr ..
  | rqS8 | rqS16 | memcpy => exact readReg_setResult hr ..

/-! ## The frame of a command (10_state R54) -/

theorem Claim.CommandFrame.refl (i : Instr) (s : State) : CommandFrame i s s :=
  ⟨fun _ _ _ _ => rfl, rfl, rfl, rfl, rfl, rfl⟩

theorem Claim.CommandFrame.trans {i : Instr} {s t u : State} (h : CommandFrame i s t)
    (h' : CommandFrame i t u) : CommandFrame i s u where
  regs r hs he hr := (h'.regs r hs he hr).trans (h.regs r hs he hr)
  ign := h'.ign.trans h.ign
  ctrl := h'.ctrl.trans h.ctrl
  params := h'.params.trans h.params
  unclean := h'.unclean.trans h.unclean
  response := h'.response.trans h.response

/-- A state that differs in the hidden state, the events to come or STATUS other than IGN. -/
theorem commandFrame_of_regs (i : Instr) {s t : State} (hregs : t.regs = s.regs)
    (hign : t.status.ign = s.status.ign) (hctrl : t.ctrl = s.ctrl) (hparams : t.params = s.params)
    (hunclean : t.unclean = s.unclean) (hresp : t.response = s.response) : CommandFrame i s t :=
  ⟨fun _ hs _ _ => readReg_congr hs hregs hctrl hparams, hign, hctrl, hparams, hunclean, hresp⟩

theorem commandFrame_raiseError (i : Instr) (c : ErrCode) (a : Word) (s : State) :
    CommandFrame i s (raiseError c a s) where
  regs _ hs he _ := readReg_raiseError hs he c a s
  ign := rfl
  ctrl := rfl
  params := rfl
  unclean := rfl
  response := rfl

theorem commandFrame_busErrorEnd (i : Instr) (candidates : List Nat) (work : List WorkUnit)
    (s : State) : CommandFrame i s (busErrorEnd candidates work s) :=
  (commandFrame_raiseError i .busError (BitVec.ofNat 32 (pickErrAddr s.draws candidates)) s).trans
    (commandFrame_of_regs i (t := busErrorEnd candidates work s) rfl rfl rfl rfl rfl rfl)

theorem commandFrame_complete (cells : List Host.Cell) (r₀ : Running) (s : State) :
    CommandFrame r₀.cmd s (completeCommand cells (resultRegs r₀ s) s) where
  regs r hs _ hr := by
    rw [← readReg_resultRegs hr s]
    exact readReg_congr hs rfl rfl rfl
  ign := rfl
  ctrl := rfl
  params := rfl
  unclean := rfl
  response := rfl

theorem commandFrame_endWith {r : Running} {x : Exposed} {work : List WorkUnit} {s t : State}
    (h : endWith r x work (resultRegs r s) s = .next t) :
    CommandFrame r.cmd s t ∧ t.pending = s.pending := by
  obtain rfl | rfl | rfl | rfl := endWith_next h
  · exact ⟨.refl _ _, rfl⟩
  · exact ⟨commandFrame_of_regs _ rfl rfl rfl rfl rfl rfl, rfl⟩
  · exact ⟨commandFrame_complete _ r s, rfl⟩
  · exact ⟨commandFrame_busErrorEnd _ _ _ s, rfl⟩

theorem commandFrame_exec {i : Instr} {s t : State} (h : exec i s = .next t) :
    CommandFrame i s t ∧ t.pending = s.pending := by
  rw [exec_eq_runCommand] at h
  have hbegin : CommandFrame i s (beginCommand i s) := commandFrame_of_regs i rfl rfl rfl rfl rfl rfl
  obtain ⟨e, -, h'⟩ | ⟨f, -, -, h'⟩ | ⟨-, -, -, h'⟩ | ⟨-, -, -, h'⟩ :=
    runCommand_cases i (startCheck i s) (startUndefined i s) (stepWindow i s.params)
      (workLeft (Running.start i) s) (resultRegs (Running.start i) s) s <;> rw [h'] at h
  · cases h; exact ⟨commandFrame_raiseError i _ _ s, rfl⟩
  · cases h
  · cases h; exact ⟨hbegin, rfl⟩
  · rw [← resultRegs_beginCommand _ i] at h
    obtain ⟨hf, hp⟩ := commandFrame_endWith h
    exact ⟨hbegin.trans hf, hp⟩

theorem commandFrame_engineTurn {ask : Nat} {r : Running} {s t : State}
    (h : engineTurn ask r s = .next t) : CommandFrame r.cmd s t ∧ t.pending = s.pending := by
  obtain ⟨-, h'⟩ | ⟨-, -, h'⟩ | ⟨-, -, h'⟩ := engineTurn_cases ask r s <;> rw [h'] at h
  · cases h; exact ⟨.refl _ _, rfl⟩
  · cases h; exact ⟨commandFrame_of_regs _ rfl rfl rfl rfl rfl rfl, rfl⟩
  · exact commandFrame_endWith h

/-- While a command runs, a step that no host event takes is an internal step or the end event. -/
theorem step_engineEvent {s : State} {r : Running} (hr : s.running = some r) (he : EngineEvent s) :
    (∃ ask rest, s.pending = .turn ask :: rest ∧
      step s = engineTurn ask r { s with pending := rest }) ∨
    ((∀ ask rest, s.pending ≠ .turn ask :: rest) ∧ step s = endCommand r s) := by
  match hp : s.pending with
  | [] => exact .inr ⟨by simp, step_end_nil s r hp hr⟩
  | .host e :: rest => exact .inr ⟨by simp, step_end_host s r e rest hp hr⟩
  | .during e :: rest => exact absurd hp (he e rest)
  | .turn ask :: rest => exact .inl ⟨ask, rest, rfl, step_turn s r ask rest hp hr⟩

/-- Settles O32, for the START, the internal steps and the end event. -/
theorem commandsChangeOnlyTheirRegisters : Obligations.CommandsChangeOnlyTheirRegisters := by
  refine ⟨fun i s t h => commandFrame_exec h, fun s t r hr he h => ?_⟩
  obtain ⟨ask, rest, hp, h'⟩ | ⟨hp, h'⟩ := step_engineEvent hr he <;> rw [h'] at h
  · obtain ⟨hf, ht⟩ := commandFrame_engineTurn h
    have hevent := commandFrame_of_regs r.cmd (s := s) (t := { s with pending := rest })
      rfl rfl rfl rfl rfl rfl
    refine ⟨hevent.trans hf, fun ask' rest' hp' => ?_, fun hno => absurd hp (hno ask rest)⟩
    rw [hp] at hp'
    cases hp'
    exact ht
  · obtain ⟨hf, ht⟩ := commandFrame_endWith h
    exact ⟨hf, fun ask rest hp' => absurd hp' (hp ask rest), fun _ => ht⟩

/-! ## Host events while a command runs -/

/-- The block is as it was: registers, enables, STATUS, and which command runs. -/
structure SameBlock (s t : State) : Prop where
  regs : t.regs = s.regs
  ctrl : t.ctrl = s.ctrl
  status : t.status = s.status
  cmd : t.running.map Running.cmd = s.running.map Running.cmd

theorem SameBlock.refl (s : State) : SameBlock s s := ⟨rfl, rfl, rfl, rfl⟩

theorem sameBlock_race {s : State} {r : Running} (hr : s.running = some r) :
    SameBlock s { s with running := some { r with raced := true } } :=
  ⟨rfl, rfl, rfl, by simp [hr]⟩

theorem sameBlock_markRace (touches : Running → Bool) (s : State) :
    SameBlock s (markRace touches s) := by
  obtain h | ⟨r, hr, -, h⟩ := markRace_cases touches s <;> rw [h]
  · exact .refl s
  · exact sameBlock_race hr

/-- An answer, a draw, and what happens to memory and to the host's caches leave the block as it is. -/
theorem SameBlock.of_eq {s t u : State} (h : SameBlock s t) (hregs : u.regs = t.regs)
    (hctrl : u.ctrl = t.ctrl) (hstatus : u.status = t.status) (hrun : u.running = t.running) :
    SameBlock s u :=
  ⟨hregs.trans h.regs, hctrl.trans h.ctrl, hstatus.trans h.status, hrun ▸ h.cmd⟩

theorem sameBlock_strayAccess (touches : Running → Bool) (q : Region) (s : State) :
    SameBlock s (strayAccess touches q s) := by
  obtain h | ⟨r, hr, -, -, h⟩ := strayAccess_cases touches q s <;> rw [h]
  · exact (SameBlock.refl s).of_eq rfl rfl rfl rfl
  · exact (sameBlock_race hr).of_eq rfl rfl rfl rfl

theorem sameBlock_hostReadReg (r : Reg) (s : State) : SameBlock s (hostReadReg r s) := by
  unfold hostReadReg
  split <;> exact (SameBlock.refl s).of_eq rfl rfl rfl rfl

theorem sameBlock_hostRead {addr : Word} {w : Width} {s t : State} (h : hostRead addr w s = .next t) :
    SameBlock s t := by
  obtain ⟨-, rfl⟩ | ⟨-, rfl⟩ | ⟨r, -, rfl⟩ | ⟨-, h⟩ := hostRead_next h
  · exact sameBlock_strayAccess _ _ s
  · exact (SameBlock.refl s).of_eq rfl rfl rfl rfl
  · exact sameBlock_hostReadReg r s
  · obtain rfl | rfl := hostReadData_next h <;>
      exact (sameBlock_markRace _ s).of_eq rfl rfl rfl rfl

theorem sameBlock_hostClean (q : Region) (s : State) : SameBlock s (hostClean q s) := by
  unfold hostClean
  split
  · exact .refl s
  · exact (sameBlock_markRace _ s).of_eq rfl rfl rfl rfl

theorem sameBlock_hostInvalidate (q : Region) (s : State) : SameBlock s (hostInvalidate q s) := by
  unfold hostInvalidate
  split
  · exact .refl s
  · exact (SameBlock.refl s).of_eq rfl rfl rfl rfl

/-- What a host write can do to the block while BUSY = 1 (10_state R51). -/
theorem hostWrite_busy {addr : Word} {w : Width} {value : BitVec 64} {s t : State}
    (hb : s.status.busy = true) (h : hostWrite addr w value s = .next t) :
    SameBlock s t ∨ t = ignoreWrite (respond .done s) ∨
      (∃ w, t = writeStatus w (respond .done s)) ∨ t = resetBlock (respond .done s) := by
  obtain ⟨-, rfl⟩ | ⟨-, rfl⟩ | ⟨r, -, h⟩ | ⟨-, h⟩ := hostWrite_next h
  · exact .inl (sameBlock_strayAccess _ _ s)
  · exact .inl ((SameBlock.refl s).of_eq rfl rfl rfl rfl)
  · obtain ⟨-, h⟩ | ⟨-, rfl⟩ | ⟨-, -, -, rfl⟩ | ⟨-, -, hidle, -⟩ := hostWriteReg_next h
    · obtain ⟨-, rfl⟩ | ⟨-, -, rfl⟩ | ⟨-, hidle, -⟩ | ⟨-, hidle, -⟩ := writeCtrl_next h
      · exact .inr (.inr (.inr rfl))
      · exact .inr (.inl rfl)
      · simp [hb] at hidle
      · simp [hb] at hidle
    · exact .inr (.inr (.inl ⟨_, rfl⟩))
    · exact .inr (.inl rfl)
    · simp [hb] at hidle
  · left
    obtain rfl | rfl := hostWriteData_next h <;>
      exact (sameBlock_markRace _ s).of_eq rfl rfl rfl rfl

/-- What a host event can do to the block while BUSY = 1: nothing, a dropped write, an acknowledgement, or a
reset (10_state R51, 60_exceptions R422). -/
theorem hostEvent_busy {e : HostEvent} {s t : State} (hb : s.status.busy = true)
    (h : hostEvent e s = .next t) :
    SameBlock s t ∨ t = ignoreWrite (respond .done s) ∨
      (∃ w, t = writeStatus w (respond .done s)) ∨ t = resetBlock (respond .done s) := by
  cases e with
  | read addr w => exact .inl (sameBlock_hostRead h)
  | write addr w value => exact hostWrite_busy hb h
  | clean addr size => cases h; exact .inl ((sameBlock_hostClean _ s).of_eq rfl rfl rfl rfl)
  | invalidate addr size =>
    cases h; exact .inl ((sameBlock_hostInvalidate _ s).of_eq rfl rfl rfl rfl)
  | hardReset => cases h; exact .inr (.inr (.inr rfl))

@[simp] theorem resetBlock_status (s : State) : (resetBlock s).status = Status.reset := by
  obtain ⟨-, h⟩ | ⟨r, -, ⟨-, h⟩ | ⟨-, h⟩⟩ := resetBlock_cases s <;> rw [h] <;> rfl

/-! ## The operands of a running command -/

/-- The command runs on with its operands (10_state R51). -/
structure OperandsKept (r : Running) (s t : State) : Prop where
  regs : t.regs = { s.regs with errAddr := t.regs.errAddr }
  ctrl : t.ctrl = s.ctrl
  cmd : t.running.map Running.cmd = some r.cmd

theorem SameBlock.operandsKept {r : Running} {s t : State} (hr : s.running = some r)
    (h : SameBlock s t) : OperandsKept r s t where
  regs := by rw [h.regs]
  ctrl := h.ctrl
  cmd := by rw [h.cmd, hr]; rfl

/-- A host event that leaves BUSY = 1 leaves the operands. -/
theorem hostEvent_operandsKept {e : HostEvent} {r : Running} {s t : State} (hr : s.running = some r)
    (hb : s.status.busy = true) (h : hostEvent e s = .next t) (ht : t.status.busy = true) :
    OperandsKept r s t := by
  have hcmd : s.running.map Running.cmd = some r.cmd := by rw [hr]; rfl
  obtain h | rfl | ⟨w, rfl⟩ | rfl := hostEvent_busy hb h
  · exact h.operandsKept hr
  · exact ⟨rfl, rfl, hcmd⟩
  · exact ⟨rfl, rfl, hcmd⟩
  · simp [Status.reset] at ht

/-- The end event leaves BUSY = 1 only when the command waits for an access that never ends. -/
theorem endWith_busy {r : Running} {x : Exposed} {work : List WorkUnit} {results : Regs} {s t : State}
    (h : endWith r x work results s = .next t) (ht : t.status.busy = true) :
    t = s ∨ t = stallCommand r s := by
  obtain h | h | rfl | rfl := endWith_next h
  · exact .inl h
  · exact .inr h
  · simp at ht
  · simp at ht

theorem endWith_operandsKept {r : Running} {x : Exposed} {work : List WorkUnit} {results : Regs}
    {s t : State} (hr : s.running = some r) (h : endWith r x work results s = .next t)
    (ht : t.status.busy = true) : OperandsKept r s t ∧ t.mem = s.mem := by
  obtain rfl | rfl := endWith_busy h ht
  · exact ⟨(SameBlock.refl _).operandsKept hr, rfl⟩
  · exact ⟨⟨rfl, rfl, rfl⟩, rfl⟩

theorem engineTurn_operandsKept {ask : Nat} {r : Running} {s t : State} (hr : s.running = some r)
    (h : engineTurn ask r s = .next t) (ht : t.status.busy = true) :
    OperandsKept r s t ∧ t.mem = s.mem := by
  obtain ⟨-, h'⟩ | ⟨-, -, h'⟩ | ⟨-, -, h'⟩ := engineTurn_cases ask r s <;> rw [h'] at h
  · cases h; exact ⟨(SameBlock.refl _).operandsKept hr, rfl⟩
  · cases h; exact ⟨⟨rfl, rfl, congrArg some (turnRunning_cmd ask r s)⟩, rfl⟩
  · exact endWith_operandsKept hr h ht

/-- A step that leaves BUSY = 1 leaves the operands, and memory when no host event takes it. -/
theorem step_operandsKept {s t : State} {r : Running} (hb : s.status.busy = true)
    (hr : s.running = some r) (h : step s = .next t) (ht : t.status.busy = true) :
    OperandsKept r s t ∧ (EngineEvent s → t.mem = s.mem) := by
  by_cases he : EngineEvent s
  · obtain ⟨ask, rest, -, h'⟩ | ⟨-, h'⟩ := step_engineEvent hr he <;> rw [h'] at h
    · obtain ⟨hk, hm⟩ := engineTurn_operandsKept (s := { s with pending := rest }) hr h ht
      exact ⟨⟨hk.regs, hk.ctrl, hk.cmd⟩, fun _ => hm⟩
    · obtain ⟨hk, hm⟩ := endWith_operandsKept hr h ht
      exact ⟨hk, fun _ => hm⟩
  · simp only [EngineEvent, not_forall, not_not] at he
    obtain ⟨e, rest, hp⟩ := he
    rw [step_during s e rest hp] at h
    have hk := hostEvent_operandsKept (s := { s with pending := rest }) hr hb h ht
    exact ⟨⟨hk.regs, hk.ctrl, hk.cmd⟩, fun he => absurd hp (he e rest)⟩

/-- Settles O54: with STATUS in order BUSY = 1, and then the operands stay. -/
theorem operandsAreImmutableWhileBusy : Obligations.OperandsAreImmutableWhileBusy := by
  intro s t r hs hr h ht
  have hb : s.status.busy = true := by rw [((statusGood_iff s).mp hs).1, hr]; rfl
  obtain ⟨⟨hregs, hctrl, hcmd⟩, hmem⟩ := step_operandsKept hb hr h ht
  exact ⟨hregs, hctrl, by simpa using hcmd, hmem⟩

end Sys2Proof.Machine
end

section
/-! PROOFS. A command sees only the registers its column marks "r" (10_state R54): its checks, its work and its
results are the same from the register file in which every other register is blank. -/

namespace Sys2Proof.Machine

open Claim

/-! ## The registers a command sees -/

/-- The register file as the rule of a command sees it: the registers it does not read are at their reset
values, and so is CMD, which is decoded before the rule is followed. -/
def seenBy (i : Instr) (g : Regs) : Regs :=
  match i with
  | .convS8 bias => seenByConv .s8 bias g
  | .convS16 bias => seenByConv .s16 bias g
  | .dotS8 clr => { seenByDot g with
      inputOffset := g.inputOffset, accLo := if clr then 0#32 else g.accLo }
  | .dotS16 clr => { seenByDot g with
      accLo := if clr then 0#32 else g.accLo, accHi := if clr then 0#32 else g.accHi }
  | .rqS8 => { seenByRq g with outputOffset := g.outputOffset }
  | .rqS16 => { seenByRq g with accHi := g.accHi }
  | .memcpy => { Regs.reset with cpySrc := g.cpySrc, cpyDst := g.cpyDst, cpyLen := g.cpyLen }
where
  /-- What a convolution sees: BIAS_ADDR only with BIAS_EN, the offsets only as an S8 command. -/
  seenByConv (v : Variant) (bias : Bool) (g : Regs) : Regs :=
    { g with
      inputOffset := match v with | .s8 => g.inputOffset | .s16 => 0#32
      outputOffset := match v with | .s8 => g.outputOffset | .s16 => 0#32
      cmd := 0#32, errAddr := 0#32, resultLo := 0#32, resultHi := 0#32
      biasAddr := if bias then g.biasAddr else 0#32
      accLo := 0#32, accHi := 0#32, reqMult := 0#32, reqShift := 0#32
      dotA := 0#32, dotB := 0#32, dotLen := 0#32, cpySrc := 0#32, cpyDst := 0#32, cpyLen := 0#32 }
  /-- The vectors of a DOT. -/
  seenByDot (g : Regs) : Regs :=
    { Regs.reset with dotA := g.dotA, dotB := g.dotB, dotLen := g.dotLen }
  /-- What both RQ commands see. -/
  seenByRq (g : Regs) : Regs :=
    { Regs.reset with
      actMin := g.actMin, actMax := g.actMax, accLo := g.accLo
      reqMult := g.reqMult, reqShift := g.reqShift }

/-- Of the registers a write may change, a command sees those its column marks "r" (10_state R54). -/
theorem seenBy_writeReg_eq_ite (i : Instr) (r : Reg) (w : Word) (g : Regs) :
    seenBy i (writeReg r w g) = if r ∈ readOf i then seenBy i (writeReg r w g) else seenBy i g := by
  rcases i with (_ | _) | (_ | _) | (_ | _) | (_ | _) | _ | _ | _ <;> cases r <;> rfl

theorem seenBy_writeReg {i : Instr} {r : Reg} (w : Word) (g : Regs) (hr : r ∉ readOf i) :
    seenBy i (writeReg r w g) = seenBy i g := by
  rw [seenBy_writeReg_eq_ite, if_neg hr]

/-- What does not change when the registers a command does not read are blanked, does not change when one of
them is written. -/
theorem poke_unread {α : Type} {i : Instr} {r : Reg} {f : State → α}
    (hf : ∀ s, f { s with regs := seenBy i s.regs } = f s) (hr : r ∉ readOf i) (w : Word) (s : State) :
    f (poke r w s) = f s := by
  rw [← hf (poke r w s), ← hf s]
  simp only [poke, seenBy_writeReg w s.regs hr]

/-! ## The checks -/

theorem startCheck_seenBy (i : Instr) (s : State) :
    startCheck i { s with regs := seenBy i s.regs } = startCheck i s := by
  rcases i with (_ | _) | (_ | _) | _ | _ | _ | _ | _ <;> rfl

theorem startUndefined_seenBy (i : Instr) (s : State) :
    startUndefined i { s with regs := seenBy i s.regs } = startUndefined i s := by
  rcases i with (_ | _) | (_ | _) | _ | _ | _ | _ | _ <;> rfl

/-! ## The work -/

/-- What the engine loads depends on the bytes it sees and on nothing else. -/
theorem memRead_congr {s t : State} (h : engineByte t = engineByte s) : memRead t = memRead s := by
  funext a n
  induction n generalizing a with
  | zero => rfl
  | succ n ih => simp only [memRead, h, ih]

theorem loadS_congr {s t : State} (h : engineByte t = engineByte s) : loadS t = loadS s := by
  funext a n
  simp only [loadS, memRead_congr h]

theorem reduce_congr {s t : State} (h : engineByte t = engineByte s) : reduce t = reduce s := by
  funext v pa pw off lo n
  have hlane : lane t v pa pw off = lane s v pa pw off := by
    funext i
    simp only [lane, loadS_congr h]
  simp only [reduce, hlane]

@[simp] theorem loadS_regs (s : State) (g : Regs) : loadS { s with regs := g } = loadS s :=
  loadS_congr rfl

@[simp] theorem reduce_regs (s : State) (g : Regs) : reduce { s with regs := g } = reduce s :=
  reduce_congr rfl

section
variable (v : Variant) (bias : Bool) (g : Regs)

@[simp] theorem convCount_seenByConv : convCount (seenBy.seenByConv v bias g) = convCount g := rfl

@[simp] theorem tapCount_seenByConv : tapCount (seenBy.seenByConv v bias g) = tapCount g := rfl

@[simp] theorem tapInside_seenByConv : tapInside (seenBy.seenByConv v bias g) = tapInside g := rfl

@[simp] theorem tapInAddr_seenByConv : tapInAddr v (seenBy.seenByConv v bias g) = tapInAddr v g := rfl

@[simp] theorem tapFltAddr_seenByConv : tapFltAddr (seenBy.seenByConv v bias g) = tapFltAddr g := rfl

@[simp] theorem outElemAddr_seenByConv :
    outElemAddr v (seenBy.seenByConv v bias g) = outElemAddr v g := rfl

@[simp] theorem outC_seenByConv : outC (seenBy.seenByConv v bias g) = outC g := rfl

@[simp] theorem inC_seenByConv : (seenBy.seenByConv v bias g).inC = g.inC := rfl

@[simp] theorem biasAddr_seenByConv : (seenBy.seenByConv v true g).biasAddr = g.biasAddr := rfl

@[simp] theorem multAddr_seenByConv : (seenBy.seenByConv v bias g).multAddr = g.multAddr := rfl

@[simp] theorem shiftAddr_seenByConv : (seenBy.seenByConv v bias g).shiftAddr = g.shiftAddr := rfl

@[simp] theorem actMin_seenByConv : (seenBy.seenByConv v bias g).actMin = g.actMin := rfl

@[simp] theorem actMax_seenByConv : (seenBy.seenByConv v bias g).actMax = g.actMax := rfl

@[simp] theorem ioff_seenByConv : v.ioff (seenBy.seenByConv v bias g) = v.ioff g := by
  cases v <;> rfl

@[simp] theorem ooff_seenByConv : v.ooff (seenBy.seenByConv v bias g) = v.ooff g := by
  cases v <;> rfl

end

theorem convWork_seenBy (v : Variant) (bias : Bool) (r : Running) (s : State) :
    convWork v bias r { s with regs := seenBy.seenByConv v bias s.regs } = convWork v bias r s := by
  cases bias <;>
    simp [convWork, convUnit, convCells, accFrom, accTap, tapSum, accBias, convValue, elemReads,
      tapReadsFrom, tapReads, stageReads] <;> rfl

theorem workLeft_seenBy (i : Instr) (s : State) :
    workLeft (Running.start i) { s with regs := seenBy i s.regs } = workLeft (Running.start i) s := by
  cases i with
  | convS8 bias | convS16 bias => exact convWork_seenBy _ bias _ s
  | dotS8 | dotS16 | rqS8 | rqS16 | memcpy => rfl

/-! ## The results -/

theorem dotAcc_seenBy (clr : Bool) (r : Running) (s : State) :
    dotAcc .s8 clr r { s with regs := seenBy (.dotS8 clr) s.regs } = dotAcc .s8 clr r s ∧
      dotAcc .s16 clr r { s with regs := seenBy (.dotS16 clr) s.regs } = dotAcc .s16 clr r s := by
  cases clr <;> simp [dotAcc, dotSum, dotBase, accPair, Variant.ioff, seenBy, seenBy.seenByDot]

theorem rqOutput_seenBy (g : Regs) : rqOutput .s8 (seenBy .rqS8 g) = rqOutput .s8 g ∧
    rqOutput .s16 (seenBy .rqS16 g) = rqOutput .s16 g := by
  simp [rqOutput, rqOperand, accPair, Variant.ooff, seenBy, seenBy.seenByRq]

theorem setResult_writeReg (v : BitVec 64) (r : Reg) (w : Word) (g : Regs) :
    setResult v (writeReg r w g) = writeReg r w (setResult v g) := by
  cases r <;> rfl

theorem setAcc_writeReg (v : BitVec 64) {r : Reg} (w : Word) (g : Regs) (hlo : r ≠ .accLo)
    (hhi : r ≠ .accHi) : setAcc v (writeReg r w g) = writeReg r w (setAcc v g) := by
  cases r
  case accLo => exact absurd rfl hlo
  case accHi => exact absurd rfl hhi
  all_goals rfl

theorem dotResults_poke {v : Variant} {clr : Bool} {r₀ : Running} {r : Reg} {w : Word} {s : State}
    (hacc : dotAcc v clr r₀ (poke r w s) = dotAcc v clr r₀ s)
    (hw : r ∉ [Reg.accLo, .accHi, .resultLo, .resultHi]) :
    dotResults v clr r₀ (poke r w s) = writeReg r w (dotResults v clr r₀ s) := by
  have hlo : r ≠ .accLo := fun h => hw (by simp [h])
  have hhi : r ≠ .accHi := fun h => hw (by simp [h])
  rw [dotResults, hacc, dotResults, ← setResult_writeReg, ← setAcc_writeReg _ _ _ hlo hhi, poke]

theorem rqResults_writeReg {v : Variant} {r : Reg} {w : Word} {g : Regs}
    (hout : rqOutput v (writeReg r w g) = rqOutput v g) :
    rqResults v (writeReg r w g) = writeReg r w (rqResults v g) := by
  rw [rqResults, hout, setResult_writeReg, rqResults]

/-- With another value in a register it does not read, a command leaves that value and the same results. -/
theorem resultRegs_poke {i : Instr} {r : Reg} (w : Word) (s : State) (hr : r ∉ readOf i)
    (hw : r ∉ resultOf i) : resultRegs (Running.start i) (poke r w s) =
      writeReg r w (resultRegs (Running.start i) s) := by
  cases i with
  | convS8 | convS16 => rfl
  | dotS8 clr => exact dotResults_poke (poke_unread (fun s => (dotAcc_seenBy clr _ s).1) hr w s) hw
  | dotS16 clr => exact dotResults_poke (poke_unread (fun s => (dotAcc_seenBy clr _ s).2) hr w s) hw
  | rqS8 =>
    exact rqResults_writeReg
      (poke_unread (f := (rqOutput .s8 ·.regs)) (fun s => (rqOutput_seenBy s.regs).1) hr w s)
  | rqS16 =>
    exact rqResults_writeReg
      (poke_unread (f := (rqOutput .s16 ·.regs)) (fun s => (rqOutput_seenBy s.regs).2) hr w s)
  | memcpy =>
    have hdst : (writeReg r w s.regs).cpyDst = s.regs.cpyDst :=
      poke_unread (f := (·.regs.cpyDst)) (fun _ => rfl) hr w s
    exact (congrArg (fun d => setResult (0#32 ++ d) (writeReg r w s.regs)) hdst).trans
      (setResult_writeReg _ r w s.regs)

/-! ## The command -/

theorem setErrAddr_writeReg (a : Word) (r : Reg) (w : Word) (g : Regs) :
    { writeReg r w g with errAddr := a } = writeReg r w { g with errAddr := a } := by
  cases r <;> rfl

theorem raiseError_poke (c : ErrCode) (a : Word) (r : Reg) (w : Word) (s : State) :
    raiseError c a (poke r w s) = poke r w (raiseError c a s) := by
  simp only [raiseError, poke, setErrAddr_writeReg]

theorem busErrorEnd_poke (candidates : List Nat) (work : List WorkUnit) (r : Reg) (w : Word)
    (s : State) :
    busErrorEnd candidates work (poke r w s) = poke r w (busErrorEnd candidates work s) := by
  have hstore : ∀ cells, storeCells cells (poke r w s) = poke r w (storeCells cells s) := fun _ => rfl
  rw [busErrorEnd, hstore, raiseError_poke]
  rfl

theorem endWith_poke (r₀ : Running) (x : Exposed) (work : List WorkUnit) (results : Regs) (r : Reg)
    (w : Word) (s : State) : endWith r₀ x work (writeReg r w results) (poke r w s) =
      mapNext (poke r w) (endWith r₀ x work results s) := by
  unfold endWith
  have hdraws : (poke r w s).draws = s.draws := rfl
  rw [hdraws, busErrorEnd_poke]
  split
  · rfl
  · split
    · rfl
    · split
      · rfl
      · split <;> rfl

theorem runCommand_poke (i : Instr) (check : Option (ErrCode × Word)) (undefined : Option Fault)
    (n : Nat) (work : List WorkUnit) (results : Regs) (r : Reg) (w : Word) (s : State) :
    runCommand i check undefined n work (writeReg r w results) (poke r w s) =
      mapNext (poke r w) (runCommand i check undefined n work results s) := by
  cases check with
  | some e => exact congrArg Host.Outcome.next (raiseError_poke e.1 e.2 r w s)
  | none =>
    cases undefined with
    | some f => rfl
    | none =>
      simp only [runCommand]
      have hi : interleaved (poke r w s) = interleaved s := rfl
      rw [hi]
      split
      · rfl
      · exact endWith_poke _ _ work results r w (beginCommand i s)

/-- Settles O48: checks, UNDEFINED cases and work are those of the registers the command sees, and its results
leave the others alone. -/
theorem commandsIgnoreTheRegistersTheyDoNotRead :
    Obligations.CommandsIgnoreTheRegistersTheyDoNotRead := by
  intro i s r w hr hw
  rw [exec_eq_runCommand, exec_eq_runCommand, poke_unread (startCheck_seenBy i) hr,
    poke_unread (startUndefined_seenBy i) hr, poke_unread (workLeft_seenBy i) hr,
    resultRegs_poke w s hr hw]
  exact runCommand_poke i _ _ _ _ _ r w s

end Sys2Proof.Machine
end

section
/-! PROOFS. The accesses of a command lie in its regions (20_memory R107, 40_conv R217, R218): the index of an
element of a tensor is below its size, and what is left of a command is made of such elements. -/

namespace Sys2Proof.Machine

open Claim

/-- An access lies in a region. -/
abbrev Region.Holds (r : Region) (x : Access) : Prop :=
  r.base ≤ x.addr ∧ x.addr + x.bytes ≤ r.base + r.size

/-- The accesses of a unit of work, and the bytes it stores, lie in these regions. -/
structure WorkUnit.Within (readable writable : List Region) (u : WorkUnit) : Prop where
  reads : ∀ x ∈ u.reads, ∃ r ∈ readable, r.Holds x
  writes : ∀ x ∈ u.writes, ∃ r ∈ writable, r.Holds x
  cells : ∀ c ∈ u.cells, ∃ r ∈ writable, r.base ≤ c.1 ∧ c.1 < r.base + r.size

/-! ## Elements of an array and of a tensor -/

/-- An element below the length of an array lies in the array. -/
theorem Region.holds_element (base es : Nat) {i n : Nat} (hi : i < n) :
    Region.Holds ⟨base, es * n⟩ ⟨base + es * i, es⟩ := by
  have hmul : es * i + es ≤ es * n := Nat.mul_succ es i ▸ Nat.mul_le_mul_left es hi
  exact ⟨Nat.le_add_right _ _, by simp only; omega⟩

theorem Region.holds_byte (base : Nat) {i n : Nat} (hi : i < n) :
    Region.Holds ⟨base, n⟩ ⟨base + i, 1⟩ := by
  simpa using Region.holds_element base 1 hi

/-- One step of a row-major index (00_scope R16). -/
theorem index_lt {x y m n : Nat} (hx : x < m) (hy : y < n) : x * n + y < m * n := by
  rw [Nat.mul_comm x]
  exact Nat.mul_add_lt_mul_of_lt_of_lt hx hy

/-! ## The convolution -/

/-- The shapes a convolution has checked agree (40_conv R202 checks 3 to 5). -/
theorem shapesAgree_of_convShapeError {g : Regs} (h : convShapeError g = none) : ShapesAgree g := by
  unfold convShapeError at h
  split_ifs at h with hgeom hin hout hbatch
  exact ⟨not_not.mp hin, not_not.mp hout, not_not.mp hbatch⟩

theorem outBatch_lt {g : Regs} {e : Nat} (he : e < convCount g) : outBatch g e < g.inN.toNat := by
  refine Nat.div_lt_of_lt_mul (he.trans_eq ?_)
  unfold convCount
  ring

theorem outC_lt {g : Regs} {e : Nat} (he : e < convCount g) : outC g e < g.outC.toNat :=
  Nat.mod_lt _ (Nat.pos_of_mul_pos_left (Nat.zero_lt_of_lt he))

theorem tapKy_lt {g : Regs} {t : Nat} (ht : t < tapCount g) : tapKy g t < g.fltKH.toNat :=
  Nat.div_lt_of_lt_mul (by rwa [Nat.mul_comm])

theorem tapKx_lt {g : Regs} {t : Nat} (ht : t < tapCount g) : tapKx g t < g.fltKW.toNat :=
  Nat.mod_lt _ (Nat.pos_of_mul_pos_left (Nat.zero_lt_of_lt ht))

/-- An input element of an in-bounds tap lies in IN (40_conv R206, R207). -/
theorem convIn_holds {v : Variant} {g : Regs} {e t i : Nat} (he : e < convCount g)
    (hin : tapInside g e t = true) (hi : i < g.inC.toNat) :
    (convIn v g).Holds ⟨tapInAddr v g e t + v.es * i, v.es⟩ := by
  simp only [tapInside, decide_eq_true_eq] at hin
  obtain ⟨hy, hyH, hx, hxW⟩ := hin
  have hindex := index_lt (index_lt (index_lt (outBatch_lt he)
    (show (tapInY g e t).toNat < g.inH.toNat by omega))
    (show (tapInX g e t).toNat < g.inW.toNat by omega)) hi
  have hholds := Region.holds_element g.inAddr.toNat v.es hindex
  simpa only [convIn, tapInAddr, Nat.mul_add, Nat.mul_assoc, Nat.add_assoc] using hholds

/-- A filter element lies in FLT (40_conv R207). -/
theorem convFlt_holds {g : Regs} {e t i : Nat} (hs : ShapesAgree g) (he : e < convCount g)
    (ht : t < tapCount g) (hi : i < g.inC.toNat) :
    (convFlt g).Holds ⟨tapFltAddr g e t + i, 1⟩ := by
  obtain ⟨hin, hout, -⟩ := hs
  have hindex := index_lt (index_lt (index_lt (outC_lt he) (tapKy_lt ht)) (tapKx_lt ht)) hi
  have hholds := Region.holds_byte g.fltAddr.toNat hindex
  simpa only [convFlt, tapFltAddr, ← hin, hout, Nat.add_assoc] using hholds

/-- An access to a channel of an in-bounds tap of output element `e`: of its input or its filter (40_conv
R207). -/
abbrev ReadsTap (v : Variant) (g : Regs) (e : Nat) (x : Access) : Prop :=
  ∃ t i, t < tapCount g ∧ tapInside g e t = true ∧ i < g.inC.toNat ∧
    (x = ⟨tapInAddr v g e t + v.es * i, v.es⟩ ∨ x = ⟨tapFltAddr g e t + i, 1⟩)

theorem mem_tapReadsFrom {v : Variant} {g : Regs} {e t lo : Nat} {x : Access} (ht : t < tapCount g)
    (hx : x ∈ tapReadsFrom v g e t lo) : ReadsTap v g e x := by
  unfold tapReadsFrom at hx
  split at hx
  next hin =>
    obtain ⟨i, hi, hx⟩ := List.mem_flatMap.mp hx
    have hi := List.mem_range'_1.mp hi
    exact ⟨t, i, ht, hin.1, by omega, by simpa using hx⟩
  · simp at hx

/-- What an output element reads: channels of in-bounds taps, and the operands of its output stage (40_conv
R217). -/
theorem mem_elemReads {v : Variant} {bias : Bool} {g : Regs} {e t lo : Nat} {x : Access}
    (hx : x ∈ elemReads v bias g e t lo) : ReadsTap v g e x ∨ x ∈ stageReads v bias g e := by
  refine (List.mem_append.mp hx).imp_left fun hx => ?_
  split at hx
  next ht =>
    obtain hx | hx := List.mem_append.mp hx
    · exact mem_tapReadsFrom ht hx
    · obtain ⟨u, hu, hx⟩ := List.mem_flatMap.mp hx
      have hu := List.mem_range'_1.mp hu
      exact mem_tapReadsFrom (by omega) hx
  · simp at hx

/-- The operands of the output stage lie in BIAS, MULT and SHIFT (40_conv R208, R209). -/
theorem stageReads_within {v : Variant} {bias : Bool} {g : Regs} {e : Nat} (hs : ShapesAgree g)
    (he : e < convCount g) :
    ∀ x ∈ stageReads v bias g e, ∃ r ∈ convReadRegions v bias g, r.Holds x := by
  intro x hx
  obtain ⟨-, hout, -⟩ := hs
  have hc := outC_lt he
  obtain hx | hx := List.mem_append.mp hx
  · cases bias with
    | false => simp at hx
    | true =>
      obtain rfl : x = _ := by simpa using hx
      exact ⟨convBiasRegion v g, by simp [convReadRegions],
        Region.holds_element _ _ (hout ▸ hc)⟩
  · obtain rfl | rfl : x = _ ∨ x = _ := by simpa using hx
    · exact ⟨convMult g, by simp [convReadRegions], Region.holds_element _ _ hc⟩
    · exact ⟨convShift g, by simp [convReadRegions], Region.holds_element _ _ hc⟩

/-- The OUT region has one element for each output element (40_conv R212). -/
theorem convOut_eq {v : Variant} {g : Regs} (hn : g.outN = g.inN) :
    convOut v g = ⟨g.outAddr.toNat, v.es * convCount g⟩ := by
  simp [convOut, convCount, hn, Nat.mul_assoc]

theorem elemReads_within {v : Variant} {bias : Bool} {g : Regs} {e t lo : Nat} (hs : ShapesAgree g)
    (he : e < convCount g) :
    ∀ x ∈ elemReads v bias g e t lo, ∃ r ∈ convReadRegions v bias g, r.Holds x := by
  intro x hx
  obtain ⟨t', i, ht', hin, hi, rfl | rfl⟩ | hx := mem_elemReads hx
  · exact ⟨convIn v g, by simp [convReadRegions], convIn_holds he hin hi⟩
  · exact ⟨convFlt g, by simp [convReadRegions], convFlt_holds hs he ht' hi⟩
  · exact stageReads_within hs he x hx

/-- An output element reads inside the read regions and writes inside OUT (40_conv R217, R218). -/
theorem convUnit_within {v : Variant} {bias : Bool} {s : State} {e t lo : Nat} {acc : BitVec 64}
    (hs : ShapesAgree s.regs) (he : e < convCount s.regs) :
    (convUnit v bias s e t lo acc).Within (convReadRegions v bias s.regs) [convOut v s.regs] := by
  have ⟨_, _, hbatch⟩ := hs
  have hout : (convOut v s.regs).Holds ⟨outElemAddr v s.regs e, v.es⟩ :=
    convOut_eq hbatch ▸ Region.holds_element _ _ he
  exact ⟨elemReads_within hs he, by simpa [convUnit] using hout,
    fun c hc => ⟨_, List.mem_singleton.mpr rfl, convCells_mem_convOut hbatch he c hc⟩⟩

/-- A unit that makes no access and stores nothing lies in any regions. -/
theorem WorkUnit.Within.empty (readable writable : List Region) :
    Within readable writable ⟨[], [], []⟩ :=
  ⟨by simp, by simp, by simp⟩

/-- The whole work of a convolution is its output elements (40_conv R203). -/
theorem mem_convWork_start {v : Variant} {bias : Bool} {i : Instr} {s : State} {u : WorkUnit}
    (hu : u ∈ convWork v bias (Running.start i) s) :
    u = ⟨[], [], []⟩ ∨ ∃ e < convCount s.regs, u = convUnit v bias s e 0 0 0#64 := by
  refine (List.mem_cons.mp hu).imp_right fun hu => ?_
  split at hu
  next he =>
    obtain rfl | hu := List.mem_cons.mp hu
    · exact ⟨0, he, rfl⟩
    · obtain ⟨e, hmem, rfl⟩ := List.mem_map.mp hu
      have := List.mem_range'_1.mp hmem
      exact ⟨e, by omega, rfl⟩
  · simp at hu

theorem convWork_within {v : Variant} {bias : Bool} {i : Instr} {s : State}
    (h : convCheck v bias s = none) : ∀ u ∈ convWork v bias (Running.start i) s,
      u.Within (convReadRegions v bias s.regs) [convOut v s.regs] := by
  intro u hu
  obtain rfl | ⟨e, he, rfl⟩ := mem_convWork_start hu
  · exact .empty _ _
  · exact convUnit_within (shapesAgree_of_convShapeError (convCheck_eq_none h).1) he

/-! ## DOT and MEMCPY -/

/-- A lane reads one element of each vector (41_dot R251). -/
theorem dotUnit_within {v : Variant} {g : Regs} {j : Nat} (hj : j < g.dotLen.toNat) :
    (dotUnit v g j).Within (dotRegions v g) [] where
  reads := by
    intro x hx
    obtain rfl | rfl : x = _ ∨ x = _ := by simpa [dotUnit] using hx
    · exact ⟨_, List.mem_cons_self, Region.holds_element _ _ hj⟩
    · exact ⟨_, List.mem_cons_of_mem _ List.mem_cons_self, Region.holds_byte _ hj⟩
  writes := by simp [dotUnit]
  cells := by simp [dotUnit]

theorem dotWork_within {v : Variant} {i : Instr} {s : State} :
    ∀ u ∈ dotWork v (Running.start i) s, u.Within (dotRegions v s.regs) [] := by
  intro u hu
  obtain ⟨j, hj, rfl⟩ := List.mem_map.mp hu
  have := List.mem_range'_1.mp hj
  exact dotUnit_within (by omega)

/-- A byte of the copy is read in SRC and written in DST (43_memcpy R312). -/
theorem copyUnit_within {s : State} {j : Nat} (hj : j < s.regs.cpyLen.toNat) :
    (copyUnit s j).Within [copySource s.regs] [copyDest s.regs] where
  reads := by
    intro x hx
    obtain rfl := List.mem_singleton.mp hx
    exact ⟨_, List.mem_singleton.mpr rfl, Region.holds_byte _ hj⟩
  writes := by
    intro x hx
    obtain rfl := List.mem_singleton.mp hx
    exact ⟨_, List.mem_singleton.mpr rfl, Region.holds_byte _ hj⟩
  cells := copyUnit_cells hj

theorem copyWork_within {s : State} : ∀ u ∈ copyWork (Running.start .memcpy) s,
    u.Within [copySource s.regs] [copyDest s.regs] := by
  intro u hu
  obtain rfl | hu := List.mem_cons.mp hu
  · exact .empty _ _
  · obtain ⟨j, hj, rfl⟩ := List.mem_map.mp hu
    have := List.mem_range'_1.mp hj
    exact copyUnit_within (by omega)

/-! ## Every command -/

/-- The whole work of a command that has passed its checks lies in its regions. -/
theorem workLeft_start_within {i : Instr} {s : State} (h : startCheck i s = none) :
    ∀ u ∈ workLeft (Running.start i) s,
      u.Within (readRegions i s.regs) (writeRegions i s.regs) := by
  cases i with
  | convS8 | convS16 => exact convWork_within h
  | dotS8 | dotS16 => exact dotWork_within
  | rqS8 | rqS16 => simp [workLeft, Running.start]
  | memcpy => exact copyWork_within

/-- Settles O34, by the elements each unit of work accesses. -/
theorem commandsAccessOnlyTheirRegions : Obligations.CommandsAccessOnlyTheirRegions := by
  intro i s h u hu
  obtain ⟨hreads, hwrites, hcells⟩ := workLeft_start_within h u hu
  exact ⟨hreads, hwrites, hcells⟩

end Sys2Proof.Machine
end

section
/-! PROOFS. Accesses of the host to the data space and its cache operations (20_memory R120 to R122, R128,
70_reset R524): which the platform answers, and what the next state then is. -/

namespace Sys2Proof.Machine

open Claim

/-! ## Regions and accesses as sets of bytes -/

/-- Two regions overlap exactly when they share a byte. -/
theorem Region.overlaps_iff {r q : Region} : r.overlaps q = true ↔
    ∃ a, (r.base ≤ a ∧ a < r.base + r.size) ∧ q.base ≤ a ∧ a < q.base + q.size := by
  simp only [Region.overlaps, decide_eq_true_eq]
  constructor
  · rintro ⟨hr, hq, hrq, hqr⟩
    exact ⟨max r.base q.base, by omega⟩
  · rintro ⟨a, ⟨hr, hr'⟩, hq, hq'⟩
    omega

theorem Region.overlaps_comm (r q : Region) : r.overlaps q = q.overlaps r := by
  rw [Bool.eq_iff_iff, Region.overlaps_iff, Region.overlaps_iff]
  simp only [and_comm]

theorem Access.mem_addrs {x : Access} {a : Nat} :
    a ∈ x.addrs ↔ x.addr ≤ a ∧ a < x.addr + x.bytes := by
  simp only [Access.addrs, List.mem_map, List.mem_range]
  constructor
  · rintro ⟨k, hk, rfl⟩
    omega
  · rintro ⟨hle, hlt⟩
    exact ⟨a - x.addr, by omega, by omega⟩

/-! ## What the platform answers -/

/-- No byte of an access that meets no range of a kind is answered in that way. -/
theorem answersAs_of_hostClear {kinds : List RangeKind} {s : State} {addr : Word} {width : Width}
    {k : RangeKind} (h : HostClear kinds s addr width) (hk : k ∈ kinds) :
    ∀ a ∈ Access.addrs ⟨addr.toNat, width.bytes⟩, ¬ answersAs s.params k a = true := by
  intro a ha hans
  simp only [answersAs, List.any_eq_true, Bool.and_eq_true, beq_iff_eq, decide_eq_true_eq] at hans
  obtain ⟨d, hd, hkind, hrange⟩ := hans
  have hover : Region.overlaps ⟨addr.toNat, width.bytes⟩ ⟨d.base, d.size⟩ = true :=
    Region.overlaps_iff.mpr ⟨a, Access.mem_addrs.mp ha, hrange⟩
  rw [h d hd (hkind ▸ hk)] at hover
  cases hover

/-- Such an access is not refused for a device or for silence (log 18). -/
theorem not_refused_of_hostClear {kinds : List RangeKind} {s : State} {addr : Word} {width : Width}
    (h : HostClear kinds s addr width) (hdev : .device ∈ kinds) (hsil : .silent ∈ kinds) :
    ((Access.addrs ⟨addr.toNat, width.bytes⟩).any (answersAs s.params .device) ||
      Access.hangs s.params ⟨addr.toNat, width.bytes⟩) = false :=
  Bool.or_eq_false_iff.mpr ⟨List.any_eq_false.mpr (answersAs_of_hostClear h hdev),
    List.any_eq_false.mpr (answersAs_of_hostClear h hsil)⟩

theorem errAddrs_of_hostClear {kinds : List RangeKind} {s : State} {addr : Word} {width : Width}
    {k : RangeKind} (h : HostClear kinds s addr width) (hk : k ∈ kinds) :
    Access.errAddrs s.params k ⟨addr.toNat, width.bytes⟩ = [] := by
  simp [Access.errAddrs, List.filter_eq_nil_iff.mpr (answersAs_of_hostClear h hk)]

/-- A load that meets neither a device nor a silent range is answered. -/
theorem hostReadData_answered {s : State} {addr : Word} {width : Width}
    (h : HostClear [.device, .silent] s addr width) :
    ∃ t, hostReadData ⟨addr.toNat, width.bytes⟩ s = .next t := by
  simp only [hostReadData, not_refused_of_hostClear h (by decide) (by decide), Bool.false_eq_true,
    if_false]
  split <;> exact ⟨_, rfl⟩

/-- A store that meets neither a device nor a silent range is answered. -/
theorem hostWriteData_answered {s : State} {addr : Word} {width : Width} (value : BitVec 64)
    (h : HostClear [.device, .silent] s addr width) :
    ∃ t, hostWriteData ⟨addr.toNat, width.bytes⟩ value s = .next t := by
  simp only [hostWriteData, not_refused_of_hostClear h (by decide) (by decide), Bool.false_eq_true,
    if_false]
  split <;> exact ⟨_, rfl⟩

/-- A load that meets no range that errs either answers with data. -/
theorem hostReadData_clear {s : State} {addr : Word} {width : Width}
    (h : HostClear [.device, .silent, .errorOnRead] s addr width) :
    hostReadData ⟨addr.toNat, width.bytes⟩ s =
      .next (respond (.data (BitVec.ofNat 64 (assemble (hostReadByte s) addr.toNat width.bytes)))
        { markRace (touchesWriteRegion s.regs ⟨addr.toNat, width.bytes⟩) s with
          draws := s.draws + 1 }) := by
  simp [hostReadData, not_refused_of_hostClear h, errAddrs_of_hostClear h]

/-- A store that meets no range that errs either puts its bytes in memory. -/
theorem hostWriteData_clear {s : State} {addr : Word} {width : Width} (value : BitVec 64)
    (h : HostClear [.device, .silent, .errorOnWrite] s addr width) :
    hostWriteData ⟨addr.toNat, width.bytes⟩ value s =
      .next (respond .done (hostStore (elementCells addr.toNat width.bytes value.toInt)
        (markRace (touchesAnyRegion s.regs ⟨addr.toNat, width.bytes⟩) s))) := by
  simp [hostWriteData, not_refused_of_hostClear h, errAddrs_of_hostClear h]

/-! ## What a race leaves alone -/

@[simp] theorem markRace_mem (touches : Running → Bool) (s : State) :
    (markRace touches s).mem = s.mem := by
  obtain h | ⟨r, -, -, h⟩ := markRace_cases touches s <;> rw [h]

@[simp] theorem markRace_pending (touches : Running → Bool) (s : State) :
    (markRace touches s).pending = s.pending := by
  obtain h | ⟨r, -, -, h⟩ := markRace_cases touches s <;> rw [h]

/-- Without a running command that the access touches there is no race. -/
theorem markRace_eq_self {touches : Running → Bool} {s : State}
    (h : ∀ r, s.running = some r → touches r = false) : markRace touches s = s := by
  obtain hm | ⟨r, hr, ht, -⟩ := markRace_cases touches s
  · exact hm
  · simp [h r hr] at ht

theorem markRace_idle (touches : Running → Bool) {s : State} (hr : s.running = none) :
    markRace touches s = s :=
  markRace_eq_self fun r h => by simp [hr] at h

/-! ## Bytes of a word -/

theorem bytes_le_eight (width : Width) : width.bytes ≤ 8 := by
  cases width <;> decide

/-- Byte `k` of the pattern of a value is its digit to base 256 (00_scope R15). -/
theorem ofInt_toInt_byte (value : BitVec 64) {k : Nat} (hk : k < 8) :
    BitVec.ofInt 8 (value.toInt / 2 ^ (8 * k)) = value.extractLsb' (8 * k) 8 := by
  have hshift : value.toInt / 2 ^ (8 * k) = (value.sshiftRight (8 * k)).toInt := by
    rw [BitVec.toInt_sshiftRight, Int.shiftRight_eq_div_pow]
    rfl
  rw [hshift]
  change (value.sshiftRight (8 * k)).signExtend 8 = _
  ext i hi
  have hi64 : i < 64 := by omega
  have hbit : 8 * k + i < 64 := by omega
  simp [BitVec.getElem_signExtend, BitVec.getElem_sshiftRight, hi64, hbit, BitVec.getLsbD_eq_getElem]

/-- Assembled bytes fit their width. -/
theorem assemble_lt (byte : Nat → Byte) (a n : Nat) : assemble byte a n < 2 ^ (8 * n) := by
  induction n generalizing a with
  | zero => simp [assemble]
  | succ n ih =>
    have hlow := (byte a).isLt
    have hhigh := ih (a + 1)
    have hpow : 2 ^ (8 * (n + 1)) = 256 * 2 ^ (8 * n) := by rw [Nat.mul_succ, pow_add]; ring
    rw [hpow, assemble]
    omega

/-- Bytes are assembled lowest address first (20_memory R100). -/
theorem assemble_byte (byte : Nat → Byte) {a n k : Nat} (hk : k < n) :
    assemble byte a n / 2 ^ (8 * k) % 256 = (byte (a + k)).toNat := by
  induction n generalizing a k with
  | zero => omega
  | succ n ih =>
    have hlow := (byte a).isLt
    cases k with
    | zero =>
      simp only [assemble, Nat.mul_zero, pow_zero, Nat.div_one, Nat.add_zero]
      omega
    | succ k =>
      have hdigits : assemble byte a (n + 1) / 256 = assemble byte (a + 1) n := by
        rw [assemble]
        omega
      calc assemble byte a (n + 1) / 2 ^ (8 * (k + 1)) % 256
          = assemble byte a (n + 1) / 256 / 2 ^ (8 * k) % 256 := by
            rw [Nat.div_div_eq_div_mul, Nat.mul_succ, pow_add, Nat.mul_comm (2 ^ (8 * k))]
            rfl
        _ = (byte (a + (k + 1))).toNat := by
            rw [hdigits, ih (by omega), Nat.add_right_comm, Nat.add_assoc]

/-- The word a load answers with holds the bytes it is assembled from. -/
theorem ofNat_assemble_byte (byte : Nat → Byte) (a : Nat) {n k : Nat} (hn : n ≤ 8) (hk : k < n) :
    (BitVec.ofNat 64 (assemble byte a n)).extractLsb' (8 * k) 8 = byte (a + k) := by
  have hlt : assemble byte a n < 2 ^ 64 :=
    (assemble_lt byte a n).trans_le (Nat.pow_le_pow_right (by decide) (by omega))
  apply BitVec.eq_of_toNat_eq
  rw [BitVec.extractLsb'_toNat, BitVec.toNat_ofNat, Nat.mod_eq_of_lt hlt, Nat.shiftRight_eq_div_pow]
  exact assemble_byte byte hk

/-! ## Stores (20_memory R120) -/

@[simp] theorem hostStore_mem (cells : List Host.Cell) (s : State) :
    (hostStore cells s).mem = s.mem.writeCells cells := rfl

/-- A stored byte is in memory. -/
theorem read_hostStore {s : State} (hm : s.mem.wf = true) (a : Nat) {n k : Nat} (value : BitVec 64)
    (hn : n ≤ 8) (hk : k < n) :
    (hostStore (elementCells a n value.toInt) s).mem.read (a + k) = value.extractLsb' (8 * k) 8 := by
  rw [hostStore_mem, Memory.read_writeCells_elementCells _ _ hm hk, ofInt_toInt_byte value (by omega)]

/-- A byte the host has stored is its own: it waits for no invalidation. -/
theorem hostStore_not_stale {s : State} (hc : s.params.coherent = false) {a n k : Nat} (x : Int)
    (hk : k < n) : (hostStore (elementCells a n x) s).stale.contains (a + k) = false := by
  have hmem : a + k ∈ (elementCells a n x).map (·.1) := List.mem_map_of_mem (mem_elementCells x hk)
  simp only [hostStore, hc, Bool.false_eq_true, if_false, List.contains_eq_mem, decide_eq_false_iff_not]
  intro hstale
  have hfresh := List.of_mem_filter hstale
  rw [decide_eq_true hmem] at hfresh
  cases hfresh

/-! ## Cache operations (70_reset R524) -/

/-- A byte that is not lost stays. -/
theorem read_loseBytes {addrs : List Nat} {a : Nat} (s : State) (h : a ∉ addrs) :
    (loseBytes addrs s).mem.read a = s.mem.read a := by
  refine Memory.read_writeCells_other _ _ _ fun c hc => ?_
  obtain ⟨b, hb, rfl⟩ := List.mem_map.mp hc
  rintro rfl
  exact h hb

/-- A write-back keeps the bytes that only the host has written. -/
theorem read_hostClean {s : State} {q : Region} {a : Nat} (hst : s.stale.contains a = false) :
    (hostClean q s).mem.read a = s.mem.read a := by
  unfold hostClean
  split
  · rfl
  · refine (read_loseBytes _ fun h => ?_).trans (by rw [markRace_mem])
    rw [List.of_mem_filter h] at hst
    cases hst

/-- After a write-back of its line the engine sees a byte as it is in memory. -/
theorem engineByte_hostClean {s : State} {q : Region} {a : Nat} (hc : s.params.coherent = false)
    (ha : q.covers a = true) : engineByte (hostClean q s) a = (hostClean q s).mem.read a := by
  simp [engineByte, hostClean, hc, ha]

/-- An invalidation keeps the bytes that the host has not stored to. -/
theorem read_hostInvalidate {s : State} {q : Region} {a : Nat} (hu : s.unclean.contains a = false) :
    (hostInvalidate q s).mem.read a = s.mem.read a := by
  unfold hostInvalidate
  split
  · rfl
  · exact read_loseBytes _ fun h => by simp [List.mem_of_mem_filter h] at hu

@[simp] theorem hostInvalidate_pending (q : Region) (s : State) :
    (hostInvalidate q s).pending = s.pending := by
  unfold hostInvalidate
  split <;> rfl

@[simp] theorem hostInvalidate_running (q : Region) (s : State) :
    (hostInvalidate q s).running = s.running := by
  unfold hostInvalidate
  split <;> rfl

/-- After an invalidation of its line a byte waits for none. -/
theorem hostInvalidate_not_stale {s : State} {q : Region} {a : Nat} (hc : s.params.coherent = false)
    (ha : q.covers a = true) : (hostInvalidate q s).stale.contains a = false := by
  simp [hostInvalidate, hc, ha]

/-- With COHERENT = true, and otherwise once a byte waits for no invalidation, the host sees it as it is in
memory (20_memory R121). -/
theorem hostByte_eq_read {s : State} {a : Nat}
    (h : s.params.coherent = false → s.stale.contains a = false) : hostByte s a = s.mem.read a := by
  cases hc : s.params.coherent
  · simp only [hostByte, h hc, Bool.and_false, Bool.false_eq_true, if_false]
  · simp [hostByte, hc]

/-! ## Loads (20_memory R121, R122) -/

/-- Outside the write region of a running command a host load reads what the host sees. -/
theorem hostReadByte_eq_hostByte {s : State} {q : Region} {a : Nat}
    (ha : q.base ≤ a ∧ a < q.base + q.size)
    (hw : ∀ r, s.running = some r → ∀ w ∈ writeRegions r.cmd s.regs, w.overlaps q = false) :
    hostReadByte s a = hostByte s a := by
  have hrace : racingRead s a = false := by
    unfold racingRead
    split
    · rfl
    next r hr =>
      refine List.any_eq_false.mpr fun w hmem hcov => ?_
      have hover := Region.overlaps_iff.mpr ⟨a, of_decide_eq_true hcov, ha⟩
      rw [hw r hr w hmem] at hover
      cases hover
  simp [hostReadByte, hrace]

/-- A load that the platform answers, of bytes that wait for no invalidation and lie outside the write
region of a running command, answers with the bytes of memory and changes nothing else. -/
theorem hostReadData_value {s : State} {addr : Word} {width : Width}
    (hc : HostClear [.device, .silent, .errorOnRead] s addr width)
    (hstale : s.params.coherent = false → ∀ k < width.bytes, s.stale.contains (addr.toNat + k) = false)
    (hw : ∀ r, s.running = some r → ∀ w ∈ writeRegions r.cmd s.regs,
      w.overlaps ⟨addr.toNat, width.bytes⟩ = false) :
    ∃ v : BitVec 64, hostReadData ⟨addr.toNat, width.bytes⟩ s =
        .next { respond (.data v) s with draws := s.draws + 1 } ∧
      v.toNat < 2 ^ (8 * width.bytes) ∧
      ∀ k < width.bytes, v.extractLsb' (8 * k) 8 = s.mem.read (addr.toNat + k) := by
  have hrace : markRace (touchesWriteRegion s.regs ⟨addr.toNat, width.bytes⟩) s = s :=
    markRace_eq_self fun r hr => List.any_eq_false.mpr fun w hmem => by
      simp [Region.overlaps_comm _ w, hw r hr w hmem]
  refine ⟨BitVec.ofNat 64 (assemble (hostReadByte s) addr.toNat width.bytes), ?_,
    (Nat.mod_le _ _).trans_lt (assemble_lt _ _ _), fun k hk => ?_⟩
  · rw [hostReadData_clear hc, hrace]
    rfl
  · rw [ofNat_assemble_byte _ _ (bytes_le_eight width) hk,
      hostReadByte_eq_hostByte ⟨Nat.le_add_right _ _, Nat.add_lt_add_left hk _⟩ hw,
      hostByte_eq_read fun hcoh => hstale hcoh k hk]

/-- Settles O52: the load answers with the assembled bytes, each of which is as memory holds it. -/
theorem hostLoadReturnsTheMemoryValue : Obligations.HostLoadReturnsTheMemoryValue := by
  intro s rest addr width hd ht hc hstale hw
  obtain ⟨v, hread, hlt, hbytes⟩ := hostReadData_value (s := { s with pending := rest }) hc hstale hw
  refine ⟨v, ?_, hlt, hbytes⟩
  rw [step_delivered hd]
  simp only [hostEvent, hostRead, ht]
  exact hread

/-! ## A store reaches the engine, and a result the host -/

/-- Two steps of a run. -/
theorem run_two {s u t : State} (hu : step s = .next u) (ht : step u = .next t) :
    Host.Core.run Sys2Proof.core 2 s = .next t := by
  change Host.Core.step Sys2Proof.core s = .next u at hu
  change Host.Core.step Sys2Proof.core u = .next t at ht
  simp only [Host.Core.run, hu, ht]

/-- A step that takes a store the platform answers without an error puts its bytes in memory. -/
theorem step_store {s : State} {rest : List Input} {addr : Word} {width : Width} {value : BitVec 64}
    (hd : Delivered (.write addr width value) s rest) (hm : s.mem.wf = true)
    (ht : targetOf s.params addr width = .data)
    (hc : HostClear [.device, .silent, .errorOnWrite] s addr width) :
    ∃ t, step s = .next t ∧ t.params = s.params ∧ t.pending = rest ∧
      (s.running = none → t.running = none) ∧ ∀ k < width.bytes,
        t.mem.read (addr.toNat + k) = value.extractLsb' (8 * k) 8 ∧
        (s.params.coherent = false → t.stale.contains (addr.toNat + k) = false) := by
  set u := markRace (touchesAnyRegion s.regs ⟨addr.toNat, width.bytes⟩) { s with pending := rest } with hu
  have hparams : u.params = s.params := markRace_params _ _
  have hmem : u.mem = s.mem := markRace_mem _ _
  refine ⟨respond .done (hostStore (elementCells addr.toNat width.bytes value.toInt) u), ?_, hparams,
    markRace_pending _ _, fun hr => ?_, fun k hk => ⟨?_, fun hcoh => ?_⟩⟩
  · rw [step_delivered hd]
    simp only [hostEvent, hostWrite, ht]
    exact hostWriteData_clear (s := { s with pending := rest }) value hc
  · show u.running = none
    rw [hu, markRace_idle _ (s := { s with pending := rest }) hr]
    exact hr
  · exact read_hostStore (hmem ▸ hm) _ value (bytes_le_eight width) hk
  · exact hostStore_not_stale (hparams ▸ hcoh) _ hk

/-- A step that writes back a range makes the engine see its bytes, but those it has written too. -/
theorem step_clean {s : State} {rest : List Input} {base size : Nat}
    (hd : Delivered (.clean base size) s rest) (hc : s.params.coherent = false) :
    ∃ t, step s = .next t ∧ ∀ a, base ≤ a → a < base + size → s.stale.contains a = false →
      t.mem.read a = s.mem.read a ∧ engineByte t a = s.mem.read a := by
  refine ⟨_, step_delivered hd, fun a hle hlt hst => ?_⟩
  have hread := read_hostClean (s := { s with pending := rest }) (q := ⟨base, size⟩) hst
  exact ⟨hread, (engineByte_hostClean (s := { s with pending := rest }) hc
    (decide_eq_true ⟨hle, hlt⟩)).trans hread⟩

/-- A step that invalidates a range keeps its bytes, but those the host has stored to, and none of them waits
for an invalidation any more. -/
theorem step_invalidate {s : State} {rest : List Input} {base size : Nat}
    (hd : Delivered (.invalidate base size) s rest) (hc : s.params.coherent = false) :
    ∃ t, step s = .next t ∧ t.params = s.params ∧ t.pending = rest ∧ t.running = s.running ∧
      ∀ a, base ≤ a → a < base + size → s.unclean.contains a = false →
        t.mem.read a = s.mem.read a ∧ t.stale.contains a = false := by
  refine ⟨_, step_delivered hd, hostInvalidate_params _ _, hostInvalidate_pending _ _,
    hostInvalidate_running _ _, fun a hle hlt hu => ⟨?_, ?_⟩⟩
  · exact read_hostInvalidate (s := { s with pending := rest }) hu
  · exact hostInvalidate_not_stale (s := { s with pending := rest }) hc (decide_eq_true ⟨hle, hlt⟩)

/-- Settles O50: a store puts its bytes in memory, and a write-back takes its bytes out of the dirty ones. -/
theorem hostStoresReachTheEngine : Obligations.HostStoresReachTheEngine := by
  refine ⟨fun s rest addr width value hd hm ht hc => ?_,
    fun s rest base size a hd hcoh hle hlt hst => ?_,
    fun s rest addr width value base size hp hr hm hcoh ht hc hle hlt => ?_⟩
  · obtain ⟨t, hstep, hparams, -, -, hbytes⟩ := step_store hd hm ht hc
    refine ⟨t, hstep, fun k hk => ?_⟩
    obtain ⟨hread, hst⟩ := hbytes k hk
    exact ⟨hread, fun hcoh => (engineByte_of_coherent (hparams ▸ hcoh) _).trans hread, hst⟩
  · obtain ⟨t, hstep, hsees⟩ := step_clean hd hcoh
    exact ⟨t, hstep, hsees a hle hlt hst⟩
  · obtain ⟨u, hstore, hparams, hpending, hrunning, hbytes⟩ := step_store (.inl ⟨hp, hr⟩) hm ht hc
    obtain ⟨t, hclean, hsees⟩ := step_clean (.inl ⟨hpending, hrunning hr⟩) (hparams ▸ hcoh)
    refine ⟨t, run_two hstore hclean, fun k hk => ?_⟩
    obtain ⟨hread, hst⟩ := hbytes k hk
    exact (hsees _ (by omega) (by omega) (hst hcoh)).2.trans hread

/-- Settles O51: an invalidation takes its bytes out of the stale ones, and a load then answers with
memory. -/
theorem engineStoresReachTheHost : Obligations.EngineStoresReachTheHost := by
  refine ⟨fun i s t h hcoh a => hostByte_eq_read fun hf => ?_,
    fun s rest base size a hd hcoh hle hlt hu => ?_,
    fun s rest addr width base size hp hr hcoh ht hc hle hlt hu => ?_⟩
  · simp [exec_params h, hcoh] at hf
  · obtain ⟨t, hstep, -, -, -, hsees⟩ := step_invalidate hd hcoh
    obtain ⟨hread, hst⟩ := hsees a hle hlt hu
    exact ⟨t, hstep, (hostByte_eq_read fun _ => hst).trans hread⟩
  · obtain ⟨u, hinv, hparams, hpending, hrunning, hsees⟩ := step_invalidate (.inl ⟨hp, hr⟩) hcoh
    have hbyte : ∀ k < width.bytes, u.mem.read (addr.toNat + k) = s.mem.read (addr.toNat + k) ∧
        u.stale.contains (addr.toNat + k) = false :=
      fun k hk => hsees _ (by omega) (by omega) (hu k hk)
    obtain ⟨v, hload, -, hv⟩ := hostLoadReturnsTheMemoryValue u rest addr width
      (.inl ⟨hpending, hrunning.trans hr⟩) (hparams ▸ ht) (by simpa only [HostClear, hparams] using hc)
      (fun _ k hk => (hbyte k hk).2) (fun r hr' => by simp [hrunning, hr] at hr')
    exact ⟨_, v, run_two hinv hload, rfl, fun k hk => (hv k hk).trans (hbyte k hk).1⟩

end Sys2Proof.Machine
end

section
/-! PROOFS. A host access that races with the running command makes its end event a fault (20_memory R122,
93 U4). -/

namespace Sys2Proof.Machine

open Claim

/-! ## An access that touches a region marks the command -/

/-- An access that touches a region of the running command sets its mark. -/
theorem markRace_running {touches : Running → Bool} {s : State} {r : Running} (hr : s.running = some r)
    (ht : touches r = true) :
    (markRace touches s).running = some { r with raced := true } := by
  simp [markRace, hr, ht]

/-- The access marks the running command and leaves the registers and the parameters. -/
structure MarksRace (touches : Running → Bool) (s t : State) : Prop where
  regs : t.regs = s.regs
  params : t.params = s.params
  running : t.running = (markRace touches s).running

/-- The answer, a draw and the bytes stored do not take the mark away. -/
theorem marksRace_of_eq {touches : Running → Bool} {s t : State}
    (hregs : t.regs = (markRace touches s).regs) (hparams : t.params = (markRace touches s).params)
    (hrunning : t.running = (markRace touches s).running) : MarksRace touches s t :=
  ⟨hregs.trans (sameBlock_markRace touches s).regs, hparams.trans (markRace_params touches s), hrunning⟩

/-- A stray access with bytes outside the block marks a race. -/
theorem marksRace_strayAccess {touches : Running → Bool} {q : Region} {s : State}
    (hout : insideBlock s.params q = false) : MarksRace touches s (strayAccess touches q s) := by
  have h : strayAccess touches q s = respond .busError (markRace touches s) := by
    simp [strayAccess, hout]
  exact h ▸ marksRace_of_eq rfl rfl rfl

/-- A host access of the data space that the platform answers, or one refused for its form with bytes outside
the block (log 21). -/
abbrev DataAccess (s : State) (addr : Word) (width : Width) : Prop :=
  (targetOf s.params addr width = .data ∧ HostClear [.device, .silent] s addr width) ∨
    (targetOf s.params addr width = .error ∧ insideBlock s.params ⟨addr.toNat, width.bytes⟩ = false)

/-- A store marks a race whatever it is answered. -/
theorem hostWrite_marksRace {s : State} {addr : Word} {width : Width} (value : BitVec 64)
    (h : DataAccess s addr width) : ∃ t, hostWrite addr width value s = .next t ∧
      MarksRace (touchesAnyRegion s.regs ⟨addr.toNat, width.bytes⟩) s t := by
  obtain ⟨ht, hc⟩ | ⟨ht, hout⟩ := h
  · obtain ⟨t, hw⟩ := hostWriteData_answered value hc
    refine ⟨t, by simpa only [hostWrite, ht] using hw, ?_⟩
    obtain rfl | rfl := hostWriteData_next hw <;> exact marksRace_of_eq rfl rfl rfl
  · exact ⟨_, by simp only [hostWrite, ht], marksRace_strayAccess hout⟩

/-- A load marks a race whatever it is answered. -/
theorem hostRead_marksRace {s : State} {addr : Word} {width : Width} (h : DataAccess s addr width) :
    ∃ t, hostRead addr width s = .next t ∧
      MarksRace (touchesWriteRegion s.regs ⟨addr.toNat, width.bytes⟩) s t := by
  obtain ⟨ht, hc⟩ | ⟨ht, hout⟩ := h
  · obtain ⟨t, hw⟩ := hostReadData_answered hc
    refine ⟨t, by simpa only [hostRead, ht] using hw, ?_⟩
    obtain rfl | rfl := hostReadData_next hw <;> exact marksRace_of_eq rfl rfl rfl
  · exact ⟨_, by simp only [hostRead, ht], marksRace_strayAccess hout⟩

/-! ## The accesses of a command do not depend on memory, nor on the mark -/

theorem workLeft_raced (r : Running) (s : State) :
    workLeft { r with raced := true } s = workLeft r s := by
  unfold workLeft
  cases r.cmd <;> rfl

theorem workHangs_convWork_congr {s t : State} (p : Params) (v : Variant) (bias : Bool) (r : Running)
    (h : t.regs = s.regs) : workHangs p (convWork v bias r t) = workHangs p (convWork v bias r s) := by
  have hunit : ∀ e tap lo acc, (convUnit v bias t e tap lo acc).hangs p =
      (convUnit v bias s e tap lo acc).hangs p := fun e tap lo acc => by
    simp only [WorkUnit.hangs, WorkUnit.readsHang, WorkUnit.writesHang, convUnit, h]
  simp only [workHangs, convWork, h]
  split
  · simp only [List.any_cons, List.any_map, Function.comp_def, hunit]
  · rfl

theorem workHangs_copyWork_congr {s t : State} (p : Params) (r : Running) (h : t.regs = s.regs) :
    workHangs p (copyWork r t) = workHangs p (copyWork r s) := by
  have hunit : ∀ j, (copyUnit t j).hangs p = (copyUnit s j).hangs p := fun j => by
    simp only [WorkUnit.hangs, WorkUnit.readsHang, WorkUnit.writesHang, copyUnit, h]
  simp only [workHangs, copyWork, h, List.any_cons, List.any_map, Function.comp_def, hunit]

/-- Whether an access of what is left of a command never ends is a matter of the registers and the platform:
the bytes of memory play no part. -/
theorem workHangs_workLeft_congr {s t : State} (p : Params) (r : Running) (h : t.regs = s.regs) :
    workHangs p (workLeft r t) = workHangs p (workLeft r s) := by
  unfold workLeft
  cases r.cmd with
  | convS8 | convS16 => exact workHangs_convWork_congr p _ _ r h
  | dotS8 | dotS16 => simp only [dotWork, h]
  | rqS8 | rqS16 => rfl
  | memcpy => exact workHangs_copyWork_congr p r h

/-! ## The end event of a marked command -/

/-- A marked command whose accesses all end faults at its end event. -/
theorem endCommand_raced {r : Running} {s : State} (hst : r.stalled = false) (hr : r.raced = true)
    (hh : workHangs s.params (workLeft r s) = false) : endCommand r s = .fault .hostRace := by
  have hx : (exposedLeft r s).hangs = false := exposed_hangs_false _ _ _ hh
  simp [endCommand, endWith, hst, hr, hx]

/-- A mark set while the command runs, whose accesses all end, makes its end event a fault. -/
theorem MarksRace.end_faults {touches : Running → Bool} {s t : State} {r : Running}
    (h : MarksRace touches s t) (hr : s.running = some r) (ht : touches r = true)
    (hst : r.stalled = false) (hh : workHangs s.params (workLeft r s) = false) :
    ∃ r', t.running = some r' ∧ r'.cmd = r.cmd ∧ endCommand r' t = .fault .hostRace := by
  refine ⟨{ r with raced := true }, h.running.trans (markRace_running hr ht), rfl,
    endCommand_raced hst rfl ?_⟩
  rw [workLeft_raced, workHangs_workLeft_congr _ r h.regs, h.params, hh]

/-- A range that overlaps one of some regions touches them. -/
theorem any_overlaps {regions : List Region} {q : Region}
    (h : ∃ w ∈ regions, w.overlaps q = true) : regions.any (q.overlaps ·) = true := by
  obtain ⟨w, hw, hover⟩ := h
  exact List.any_eq_true.mpr ⟨w, hw, Region.overlaps_comm q w ▸ hover⟩

/-- Settles O53: the access marks the command, and its end event finds the mark. -/
theorem hostRaceMakesTheCommandUndefined : Obligations.HostRaceMakesTheCommandUndefined := by
  intro s rest r addr width value hr hst hh haccess htouch
  obtain ⟨touches, t, hstep, hmark, ht⟩ : ∃ touches t, step s = .next t ∧
      MarksRace touches { s with pending := rest } t ∧ touches r = true := by
    obtain ⟨hp, htouch⟩ | ⟨hp, htouch⟩ := htouch <;> rw [step_during s _ rest hp]
    · obtain ⟨t, hw, hmark⟩ := hostWrite_marksRace (s := { s with pending := rest }) value haccess
      exact ⟨_, t, hw, hmark, any_overlaps htouch⟩
    · obtain ⟨t, hw, hmark⟩ := hostRead_marksRace (s := { s with pending := rest }) haccess
      exact ⟨_, t, hw, hmark, any_overlaps htouch⟩
  obtain ⟨r', hr', hcmd, hend⟩ := hmark.end_faults hr ht hst
    ((workHangs_workLeft_congr (s := s) s.params r rfl).trans hh)
  exact ⟨t, r', hstep, hr', hcmd, hend⟩

end Sys2Proof.Machine
end

section
/-! PROOFS. Decoder and encoder (30_encoding R150 to R162): a word decodes to a command exactly when it is that
command's word; the decoder refuses the words of R156, and the match/mask list of R153 is the decoder. -/

namespace Sys2Proof.Machine

open Claim

/-! ## The eleven commands -/

/-- Every command with every value of its free bit (30_encoding R153). -/
def allCommands : List Instr :=
  [.convS8 false, .convS8 true, .convS16 false, .convS16 true, .dotS8 false, .dotS8 true, .dotS16 false,
    .dotS16 true, .rqS8, .rqS16, .memcpy]

theorem mem_allCommands (i : Instr) : i ∈ allCommands := by
  cases i with
  | convS8 b | convS16 b | dotS8 b | dotS16 b => cases b <;> decide
  | rqS8 | rqS16 | memcpy => decide

/-- What holds of the eleven commands one by one holds of every command. -/
theorem forall_command {P : Instr → Prop} (h : ∀ i ∈ allCommands, P i) (i : Instr) : P i :=
  h i (mem_allCommands i)

/-! ## Decoding the word of a command -/

/-- Settles O1, command by command. -/
theorem decodeOfEncodeIsTheCommand : Obligations.DecodeOfEncodeIsTheCommand :=
  forall_command (by decide)

/-- Settles O2: the fields of a word that decodes are those of its command, and a word is its fields. -/
theorem decodeAgreesWithEncodeOnAllWords : Obligations.DecodeAgreesWithEncodeOnAllWords := by
  intro w i
  constructor
  · exact fun h => (encode_of_decode h).symm
  · rintro rfl
    exact decodeOfEncodeIsTheCommand i

/-! ## The words the decoder refuses -/

theorem withBias_error {w : Word} {f : Bool → Instr} {e : Illegal} (h : withBias w f = .error e) :
    accClrOf w = true := by
  unfold withBias at h
  split at h
  · assumption
  · cases h

theorem withClr_error {w : Word} {f : Bool → Instr} {e : Illegal} (h : withClr w f = .error e) :
    biasEnOf w = true := by
  unfold withClr at h
  split at h
  · assumption
  · cases h

theorem withNone_error {w : Word} {i : Instr} {e : Illegal} (h : withNone w i = .error e) :
    biasEnOf w = true ∨ accClrOf w = true := by
  unfold withNone at h
  split_ifs at h with hb hc
  · exact .inl hb
  · exact .inr hc

/-- The conditions of 30_encoding R156, over the fields of R150. -/
theorem illegalWord_iff (w : Word) : IllegalWord w ↔
    (opcodeOf w = 0x00#8 ∨ 0x08 ≤ (opcodeOf w).toNat) ∨ reservedOf w ≠ 0#22 ∨
      (biasEnOf w = true ∧ opcodeOf w ≠ 0x01#8 ∧ opcodeOf w ≠ 0x02#8) ∨
      (accClrOf w = true ∧ opcodeOf w ≠ 0x03#8 ∧ opcodeOf w ≠ 0x04#8) := Iff.rfl

/-- A word the decoder refuses meets one of the conditions of R156. -/
theorem illegalWord_of_decode {w : Word} {e : Illegal} (h : decode w = .error e) : IllegalWord w := by
  rw [illegalWord_iff]
  unfold decode at h
  split_ifs at h with hr h1 h2 h3 h4 h5 h6 h7
  · exact .inr (.inl hr)
  · simp [withBias_error h, h1]
  · simp [withBias_error h, h2]
  · simp [withClr_error h, h3]
  · simp [withClr_error h, h4]
  · simp [withNone_error h, h5]
  · simp [withNone_error h, h6]
  · simp [withNone_error h, h7]
  · left
    bv_omega

/-- The word of a command meets none of them. -/
theorem not_illegalWord_encode : ∀ i : Instr, ¬ IllegalWord (encode i) :=
  forall_command (by decide)

theorem decode_of_illegalWord {w : Word} (h : IllegalWord w) : ∃ e, decode w = .error e := by
  cases hd : decode w with
  | error e => exact ⟨e, rfl⟩
  | ok i => exact absurd (encode_of_decode hd ▸ h) (not_illegalWord_encode i)

/-- Settles O3. -/
theorem decodeRefusesExactlyTheIllegalWords : Obligations.DecodeRefusesExactlyTheIllegalWords :=
  fun _ => ⟨fun ⟨_, h⟩ => illegalWord_of_decode h, decode_of_illegalWord⟩

/-! ## The match/mask list (30_encoding R153) -/

theorem selects_iff (row : EncodingRow) (w : Word) :
    row.selects w = true ↔ w &&& row.mask = row.pattern := beq_iff_eq

/-- A mask leaves out no bit but the two flags. -/
theorem mask_bit : ∀ row ∈ encodingTable, ∀ k < 32, k ≠ 8 → k ≠ 9 → row.mask.getLsbD k = true := by
  decide

theorem exists_row_of_mnemonic :
    ∀ i : Instr, ∃ row ∈ encodingTable, row.mnemonic = i.mnemonic :=
  forall_command (by decide)

/-- The row of a command holds the bits of the command's word under its mask. -/
theorem encode_and_mask : ∀ i : Instr, ∀ row ∈ encodingTable, row.mnemonic = i.mnemonic →
    encode i &&& row.mask = row.pattern :=
  forall_command (by decide)

theorem flags_encode : ∀ i : Instr,
    (encode i).getLsbD 8 = i.biasEn ∧ (encode i).getLsbD 9 = i.accClr :=
  forall_command (by decide)

/-- Two words that agree under a mask of the list and in both flags are the same word. -/
theorem eq_of_masked_eq {row : EncodingRow} (hrow : row ∈ encodingTable) {v w : Word}
    (h : v &&& row.mask = w &&& row.mask) (h8 : v.getLsbD 8 = w.getLsbD 8)
    (h9 : v.getLsbD 9 = w.getLsbD 9) : v = w := by
  apply BitVec.eq_of_getLsbD_eq
  intro k hk
  by_cases hk8 : k = 8
  · rw [hk8, h8]
  by_cases hk9 : k = 9
  · rw [hk9, h9]
  have hbit := congrArg (BitVec.getLsbD · k) h
  simpa [mask_bit row hrow k hk hk8 hk9] using hbit

/-- A word is a command's word exactly when it selects the command's row and has its flags. -/
theorem eq_encode_iff_selects (w : Word) (i : Instr) : w = encode i ↔
    (∃ row ∈ encodingTable, row.selects w = true ∧ row.mnemonic = i.mnemonic) ∧
      w.getLsbD 8 = i.biasEn ∧ w.getLsbD 9 = i.accClr := by
  obtain ⟨hb, hc⟩ := flags_encode i
  constructor
  · rintro rfl
    obtain ⟨row, hrow, hm⟩ := exists_row_of_mnemonic i
    exact ⟨⟨row, hrow, (selects_iff row _).mpr (encode_and_mask i row hrow hm), hm⟩, hb, hc⟩
  · rintro ⟨⟨row, hrow, hsel, hm⟩, h8, h9⟩
    exact eq_of_masked_eq hrow (((selects_iff row w).mp hsel).trans (encode_and_mask i row hrow hm).symm)
      (h8.trans hb.symm) (h9.trans hc.symm)

/-- The words that decode are the eleven command words. -/
theorem exists_decode_iff (w : Word) : (∃ i, decode w = .ok i) ↔ w ∈ allCommands.map encode := by
  simp only [List.mem_map, mem_allCommands, true_and, decodeAgreesWithEncodeOnAllWords w, eq_comm]

/-- A row selects words of its own OPCODE only. -/
theorem opcodeOf_of_selects {row : EncodingRow} (hrow : row ∈ encodingTable) {w : Word}
    (h : row.selects w = true) : opcodeOf w = opcodeOf row.pattern := by
  have hmask : ∀ row ∈ encodingTable, opcodeOf row.mask = BitVec.allOnes 8 := by decide
  rw [← (selects_iff row w).mp h, opcodeOf, opcodeOf, BitVec.extractLsb'_and,
    show row.mask.extractLsb' 0 8 = _ from hmask row hrow, BitVec.and_allOnes]

/-- Settles O4: the rows by their masks, the legal words by the list of commands, and no two rows for one
word because the rows' OPCODEs differ. -/
theorem matchMaskListIsTheDecoder : Obligations.MatchMaskListIsTheDecoder := by
  refine ⟨fun w i => ?_, exists_decode_iff, fun w a ha b hb hsa hsb => ?_⟩
  · rw [decodeAgreesWithEncodeOnAllWords, eq_encode_iff_selects]
  · have hopcodes : ∀ a ∈ encodingTable, ∀ b ∈ encodingTable,
        opcodeOf a.pattern = opcodeOf b.pattern → a = b := by decide
    exact hopcodes a ha b hb ((opcodeOf_of_selects ha hsa).symm.trans (opcodeOf_of_selects hb hsb))

/-! ## Words and syntaxes written out from the spec -/

/-- Settles O5, word by word. -/
theorem specWordsDecode : Obligations.SpecWordsDecode := by
  unfold Obligations.SpecWordsDecode
  decide

/-- Settles O6, line by line. -/
theorem assemblerSyntaxNamesTheWords : Obligations.AssemblerSyntaxNamesTheWords := by
  unfold Obligations.AssemblerSyntaxNamesTheWords
  decide

/-! ## A START with an illegal word (30_encoding R156) -/

/-- A START taken while the engine is idle stores the enables and runs the word in CMD (60_exceptions R410). -/
theorem step_start {s : State} {rest : List Input} {w : Word} (hp : s.params.wf = true)
    (hd : Delivered (writeEvent s .ctrl w) s rest) (hb : s.status.busy = false)
    (hsrst : w.getLsbD 31 = false) (hstart : w.getLsbD 0 = true) :
    step s = startCommand (storeEnables w (after s rest .done)) := by
  have hb' : (after s rest .done).status.busy = false := hb
  rw [step_writeReg hp hd]
  simp only [hostWriteReg, writeCtrl, hsrst, hstart, hb', Bool.false_eq_true, if_false, if_true]

theorem startCommand_illegal {s : State} (h : IllegalWord s.regs.cmd) :
    startCommand s = .next (raiseError .illegalCmd 0#32 (acceptStart s)) := by
  obtain ⟨e, he⟩ := decode_of_illegalWord h
  rw [startCommand, he]

/-- An error raised at an accepted START leaves the state before it with the enables, the error in STATUS and
ERR_ADDR (60_exceptions R411). -/
theorem raiseError_acceptStart {s : State} (rest : List Input) (w : Word) (c : ErrCode) (a : Word)
    (hr : s.running = none) :
    raiseError c a (acceptStart (storeEnables w (after s rest .done))) = startError s rest w c a := by
  change { startError s rest w c a with running := none } = _
  rw [← hr]
  rfl

/-- Settles O8: the decoder refuses the word, and the START raises the error. -/
theorem startWithIllegalWordIsRejected : Obligations.StartWithIllegalWordIsRejected := by
  intro s rest w hp hd hr hb hsrst hstart hill
  rw [step_start hp hd hb hsrst hstart,
    startCommand_illegal (s := storeEnables w (after s rest .done)) hill,
    raiseError_acceptStart rest w _ _ hr]

end Sys2Proof.Machine
end

section
/-! PROOFS. What a command and its later steps do to memory (40_conv R218, 43_memcpy R314, 60_exceptions R412,
R413): they store bytes of the command's work, which lie in its write region. -/

namespace Sys2Proof.Machine

open Claim

/-- From `s` to `t` memory changes only by bytes of the work being stored, all of them when DONE rises
(60_exceptions R412, R413). -/
abbrev StoresOf (work : List WorkUnit) (s t : State) : Prop :=
  ∃ cells ⊆ workCells work, t.mem = s.mem.writeCells cells ∧
    (s.status.done = false → t.status.done = true → cells = workCells work)

theorem StoresOf.nothing (work : List WorkUnit) {s t : State} (hm : t.mem = s.mem)
    (hd : t.status.done = s.status.done) : StoresOf work s t :=
  ⟨[], List.nil_subset _, hm, fun hs ht => by simp [hd, hs] at ht⟩

theorem StoresOf.of_endWith {r : Running} {x : Exposed} {work : List WorkUnit} {results : Regs}
    {s t : State} (h : endWith r x work results s = .next t) : StoresOf work s t := by
  obtain rfl | rfl | rfl | rfl := endWith_next h
  · exact .nothing work rfl rfl
  · exact .nothing work rfl rfl
  · exact ⟨_, List.Subset.refl _, rfl, fun _ _ => rfl⟩
  · exact ⟨_, abortedCells_subset s.params s.draws work, rfl, fun hs ht => absurd ht (by simp [hs])⟩

theorem workLeft_pending (r : Running) (rest : List Input) (s : State) :
    workLeft r { s with pending := rest } = workLeft r s := by
  unfold workLeft
  cases r.cmd <;> rfl

theorem StoresOf.of_engineTurn {ask : Nat} {r : Running} {s t : State}
    (h : engineTurn ask r s = .next t) : StoresOf (workLeft r s) s t := by
  obtain ⟨-, h'⟩ | ⟨-, -, h'⟩ | ⟨-, -, h'⟩ := engineTurn_cases ask r s <;> rw [h'] at h
  · cases h; exact .nothing _ rfl rfl
  · cases h; exact .nothing _ rfl rfl
  · exact .of_endWith h

/-- A step of a running command that no host event takes stores bytes of what is left of the command. -/
theorem StoresOf.of_step {r : Running} {s t : State} (hr : s.running = some r) (he : EngineEvent s)
    (h : step s = .next t) : StoresOf (workLeft r s) s t := by
  obtain ⟨ask, rest, -, h'⟩ | ⟨-, h'⟩ := step_engineEvent hr he <;> rw [h'] at h
  · have hturn := StoresOf.of_engineTurn h
    rwa [workLeft_pending] at hturn
  · exact .of_endWith h

/-- What the work does not name keeps its byte. -/
theorem StoresOf.read_other {work : List WorkUnit} {s t : State} {a : Nat} (h : StoresOf work s t)
    (ha : ∀ c ∈ workCells work, c.1 ≠ a) : t.mem.read a = s.mem.read a := by
  obtain ⟨cells, hsub, hm, -⟩ := h
  rw [hm]
  exact Memory.read_writeCells_other _ _ _ fun c hc => ha c (hsub hc)

/-- Every byte is old or one of the work. -/
theorem StoresOf.read_cases {work : List WorkUnit} {s t : State} (h : StoresOf work s t)
    (hwf : s.mem.wf = true) (a : Nat) :
    t.mem.read a = s.mem.read a ∨ (a, t.mem.read a) ∈ workCells work := by
  obtain ⟨cells, hsub, hm, -⟩ := h
  rw [hm]
  obtain hold | ⟨b, hb, rfl⟩ := Memory.read_writeCells_cases s.mem cells a hwf
  · exact .inl hold
  · exact .inr (hsub hb)

/-- From its START a command stores nothing, or bytes of its work once its checks have passed. -/
theorem exec_mem {i : Instr} {s t : State} (h : exec i s = .next t) :
    t.mem = s.mem ∨ startCheck i s = none ∧
      StoresOf (workLeft (Running.start i) s) (beginCommand i s) t := by
  rw [exec_eq_runCommand] at h
  obtain ⟨e, -, h'⟩ | ⟨f, -, -, h'⟩ | ⟨-, -, -, h'⟩ | ⟨hc, -, -, h'⟩ :=
    runCommand_cases i (startCheck i s) (startUndefined i s) (stepWindow i s.params)
      (workLeft (Running.start i) s) (resultRegs (Running.start i) s) s <;> rw [h'] at h
  · cases h; exact .inl rfl
  · cases h
  · cases h; exact .inl rfl
  · exact .inr ⟨hc, .of_endWith h⟩

/-- The whole work of a command stores only to its write region. -/
theorem workLeft_start_cells {i : Instr} {s : State} (h : startCheck i s = none) :
    ∀ c ∈ workCells (workLeft (Running.start i) s), Writes i s c.1 := fun c hc =>
  (workLeft_cells (r := Running.start i) h c hc).resolve_left (by simp [Running.start])

theorem read_exec_outside {i : Instr} {s t : State} {a : Nat} (h : exec i s = .next t)
    (ha : ¬ Writes i s a) : t.mem.read a = s.mem.read a := by
  obtain hm | ⟨hc, hstores⟩ := exec_mem h
  · rw [hm]
  · exact hstores.read_other fun c hc' => by
      rintro rfl
      exact ha (workLeft_start_cells hc c hc')

/-- Settles O33, for the START and for every later step of a running command. -/
theorem commandsStoreOnlyInTheirWriteRegion : Obligations.CommandsStoreOnlyInTheirWriteRegion := by
  refine ⟨fun i s t h a => read_exec_outside h, fun s t r hr hgood he h => ?_⟩
  have hstores := StoresOf.of_step hr he h
  obtain ⟨-, hcheck, -, hwrites⟩ := (runningGood_iff s).mp hgood r hr
  refine ⟨fun a ha => hstores.read_other fun c hc => ?_, hstores.read_cases, fun hs ht => ?_⟩
  · rintro rfl
    exact ha ((workLeft_cells hcheck c hc).elim (hwrites c) id)
  · obtain ⟨cells, -, hm, hall⟩ := hstores
    rw [hm, hall hs ht]

end Sys2Proof.Machine
end

section
/-! PROOFS. A command that passes its checks and meets no UNDEFINED case, and whose accesses the platform
answers, completes (60_exceptions R413). -/

namespace Sys2Proof.Machine

open Claim

/-! ## The platform answers the accesses of a region -/

/-- No range of the platform's map of one of two kinds meets the region. -/
abbrev Region.ClearOf (p : Params) (k l : RangeKind) (r : Region) : Prop :=
  ∀ d ∈ p.busMap, (d.kind = k ∨ d.kind = l) → r.overlaps ⟨d.base, d.size⟩ = false

theorem Region.ClearOf.not_answersAs {p : Params} {k l m : RangeKind} {r : Region} {x : Access}
    (hr : r.ClearOf p k l) (hx : r.Holds x) (hm : m = k ∨ m = l) :
    ∀ a ∈ x.addrs, ¬ answersAs p m a = true := by
  intro a ha hans
  simp only [answersAs, List.any_eq_true, Bool.and_eq_true, beq_iff_eq, decide_eq_true_eq] at hans
  obtain ⟨d, hd, rfl, hrange⟩ := hans
  obtain ⟨hlo, hhi⟩ := hx
  obtain ⟨hale, halt⟩ := Access.mem_addrs.mp ha
  have hover : r.overlaps ⟨d.base, d.size⟩ = true :=
    Region.overlaps_iff.mpr ⟨a, ⟨by omega, by omega⟩, hrange⟩
  rw [hr d hd hm] at hover
  cases hover

theorem Region.ClearOf.errAddrs {p : Params} {k l : RangeKind} {r : Region} {x : Access}
    (hr : r.ClearOf p k l) (hx : r.Holds x) : x.errAddrs p k = [] := by
  simp [Access.errAddrs, List.filter_eq_nil_iff.mpr (hr.not_answersAs hx (.inl rfl))]

theorem Region.ClearOf.not_hangs {p : Params} {k : RangeKind} {r : Region} {x : Access}
    (hr : r.ClearOf p k .silent) (hx : r.Holds x) : ¬ x.hangs p = true := by
  rw [Access.hangs, List.any_eq_true]
  rintro ⟨a, ha, hans⟩
  exact hr.not_answersAs hx (.inr rfl) a ha hans

/-- A unit of work answers when its regions meet no range that errs or never answers. -/
theorem WorkUnit.Within.answers {p : Params} {readable writable : List Region} {u : WorkUnit}
    (hu : u.Within readable writable) (hr : ∀ r ∈ readable, r.ClearOf p .errorOnRead .silent)
    (hw : ∀ r ∈ writable, r.ClearOf p .errorOnWrite .silent) : u.answers p = true := by
  have hreads : u.readErrAddrs p = [] ∧ u.readsHang p = false := by
    refine ⟨List.flatMap_eq_nil_iff.mpr fun x hx => ?_, List.any_eq_false.mpr fun x hx => ?_⟩ <;>
      obtain ⟨r, hmem, hin⟩ := hu.reads x hx
    · exact (hr r hmem).errAddrs hin
    · exact (hr r hmem).not_hangs hin
  have hwrites : u.writeErrAddrs p = [] ∧ u.writesHang p = false := by
    refine ⟨List.flatMap_eq_nil_iff.mpr fun x hx => ?_, List.any_eq_false.mpr fun x hx => ?_⟩ <;>
      obtain ⟨r, hmem, hin⟩ := hu.writes x hx
    · exact (hw r hmem).errAddrs hin
    · exact (hw r hmem).not_hangs hin
  exact (answers_iff p u).mpr ⟨by simp [WorkUnit.errAddrs, hreads, hwrites],
    by simp [WorkUnit.hangs, hreads, hwrites]⟩

theorem workLeft_start_answers {i : Instr} {s : State} (hc : startCheck i s = none)
    (ha : Answers i s) : ∀ u ∈ workLeft (Running.start i) s, u.answers s.params = true := by
  obtain ⟨hr, hw⟩ := ha
  exact fun u hu => (workLeft_start_within hc u hu).answers hr hw

/-! ## Completion -/

/-- The state a completion leaves (60_exceptions R413). -/
theorem completeCommand_beginCommand (cells : List Host.Cell) (results : Regs) (i : Instr) (s : State) :
    completeCommand cells results (beginCommand i s) =
      { s with mem := s.mem.writeCells cells, stale := staleAfter s cells, regs := results,
               status := doneStatus s, running := none } := rfl

/-- A command that passes its checks and whose work answers completes. -/
theorem exec_completes_of_answers {i : Instr} {s : State} (hc : startCheck i s = none)
    (hu : startUndefined i s = none) (hi : interleaved s = false)
    (ha : ∀ u ∈ workLeft (Running.start i) s, u.answers s.params = true) :
    exec i s = .next { s with
      mem := s.mem.writeCells (workCells (workLeft (Running.start i) s))
      stale := staleAfter s (workCells (workLeft (Running.start i) s))
      regs := resultRegs (Running.start i) s, status := doneStatus s, running := none } := by
  rw [exec_eq_runCommand, hc, hu, runCommand_completes _ _ _ _ _ hi ha, completeCommand_beginCommand]

theorem exec_completes {i : Instr} {s : State} (hc : startCheck i s = none)
    (hu : startUndefined i s = none) (ha : Answers i s) (hi : interleaved s = false) :
    exec i s = .next { s with
      mem := s.mem.writeCells (workCells (workLeft (Running.start i) s))
      stale := staleAfter s (workCells (workLeft (Running.start i) s))
      regs := resultRegs (Running.start i) s, status := doneStatus s, running := none } :=
  exec_completes_of_answers hc hu hi (workLeft_start_answers hc ha)

/-- With COHERENT = true no byte is stale (20_memory R121). -/
theorem staleAfter_of_coherent {s : State} (h : s.params.coherent = true) (cells : List Host.Cell) :
    staleAfter s cells = s.stale := by
  rw [staleAfter, if_pos h]

@[simp] theorem staleAfter_nil (s : State) : staleAfter s [] = s.stale :=
  ite_self _

/-! ## UNDEFINED cases -/

/-- Regions that meet neither the register block nor a device are ordinary memory (20_memory R106). -/
theorem ordinaryFault_eq_none {p : Params} {regions : List Region} : ordinaryFault p regions = none ↔
    ∀ r ∈ regions, r.overlaps (blockRegion p) = false ∧
      ∀ d ∈ p.busMap, d.kind = .device → r.overlaps ⟨d.base, d.size⟩ = false := by
  simp [ordinaryFault, Region.notOrdinary]

end Sys2Proof.Machine
end

section
/-! PROOFS. The checks of a convolution and its UNDEFINED cases (40_conv R202, R215, 20_memory R106, R124). -/

namespace Sys2Proof.Machine

open Claim

/-! ## The checks in their order (40_conv R202, 60_exceptions R404) -/

/-- The region that ADDR_RANGE names is the first that ends beyond the data space (20_memory R108). -/
theorem addrRangeError_append {pre post : List Region} {r : Region}
    (hpre : ∀ q ∈ pre, q.base + q.size ≤ 2 ^ 32) (hr : 2 ^ 32 < r.base + r.size) :
    addrRangeError (pre ++ r :: post) = some (.addrRange, BitVec.ofNat 32 r.base) := by
  have hnone : pre.find? (fun r => decide (2 ^ 32 < r.base + r.size)) = none := by
    simpa using hpre
  rw [addrRangeError, List.find?_append, hnone, Option.none_or, List.find?_cons_of_pos (by simpa)]
  rfl

section
variable {v : Variant} {bias : Bool} {s : State}

theorem convCheck_of_clamp (h : ¬ ClampLegal v.loType v.hiType s.regs) :
    convCheck v bias s = some (.clampRange, 0#32) := by
  rw [convCheck, clampRangeError, if_neg h, Option.some_or]

theorem convCheck_of_clampLegal (h : ClampLegal v.loType v.hiType s.regs) : convCheck v bias s =
    (convShapeError s.regs).or (addrRangeError (convRegions v bias s.regs)) := by
  rw [convCheck, clampRangeError, if_pos h, Option.none_or]

theorem convCheck_of_shapeError {e : ErrCode × Word} (h : ClampLegal v.loType v.hiType s.regs)
    (he : convShapeError s.regs = some e) : convCheck v bias s = some e := by
  rw [convCheck_of_clampLegal h, he, Option.some_or]

end

theorem convShapeError_of_geometry {g : Regs} (h : ¬ GeometryLegal g) :
    convShapeError g = some (.paramRange, 0#32) :=
  if_pos (by simpa only [GeometryLegal, ne_eq, ← not_or, not_not] using h)

theorem convShapeError_of_geometryLegal {g : Regs} (h : GeometryLegal g) : convShapeError g =
    if g.inC ≠ g.fltI then some (.cinMismatch, 0#32)
    else if g.fltO ≠ g.outC then some (.coutMismatch, 0#32)
    else if g.outN ≠ g.inN then some (.batchMismatch, 0#32)
    else none :=
  if_neg (by simpa only [GeometryLegal, ne_eq, ← not_or] using h)

theorem convCheck_of_shapesAgree {v : Variant} {bias : Bool} {s : State}
    (hclamp : ClampLegal v.loType v.hiType s.regs) (hgeom : GeometryLegal s.regs)
    (hshape : ShapesAgree s.regs) :
    convCheck v bias s = addrRangeError (convRegions v bias s.regs) := by
  obtain ⟨hin, hout, hbatch⟩ := hshape
  rw [convCheck_of_clampLegal hclamp, convShapeError_of_geometryLegal hgeom]
  simp [hin, hout, hbatch]

/-- The regions of 20_memory R107 as a list of bases and sizes, in their order. -/
theorem convRegions_eq_map (v : Variant) (bias : Bool) (g : Regs) : convRegions v bias g =
    ([(g.inAddr.toNat, v.es * g.inN.toNat * g.inH.toNat * g.inW.toNat * g.inC.toNat),
      (g.fltAddr.toNat, g.fltO.toNat * g.fltKH.toNat * g.fltKW.toNat * g.fltI.toNat)] ++
     (if bias then [(g.biasAddr.toNat, v.bs * g.fltO.toNat)] else []) ++
     [(g.multAddr.toNat, 4 * g.outC.toNat), (g.shiftAddr.toNat, 4 * g.outC.toNat),
      (g.outAddr.toNat, v.es * g.outN.toNat * g.outH.toNat * g.outW.toNat * g.outC.toNat)]).map
      fun q => ⟨q.1, q.2⟩ := by
  cases bias <;> rfl

/-- Settles O27, check by check: each is reached only when those before it pass. -/
theorem convChecksInOrder : Obligations.ConvChecksInOrder := by
  intro bias s ⟨i, v, lo, hi⟩ hp
  obtain ⟨hcheck, hlo, hhi⟩ :
      startCheck i s = convCheck v bias s ∧ lo = v.loType ∧ hi = v.hiType := by
    simp only [List.mem_cons, List.not_mem_nil, or_false, Prod.mk.injEq] at hp
    obtain ⟨rfl, rfl, rfl, rfl⟩ | ⟨rfl, rfl, rfl, rfl⟩ := hp <;> exact ⟨rfl, rfl, rfl⟩
  simp only [hcheck, hlo, hhi]
  refine ⟨convCheck_of_clamp, fun hclamp hgeom => ?_, fun hclamp hgeom => ⟨fun hin => ?_,
    fun hin hout => ?_, fun hin hout hbatch => ?_, fun hshape => ?_⟩⟩
  · exact convCheck_of_shapeError hclamp (convShapeError_of_geometry hgeom)
  · refine convCheck_of_shapeError hclamp ?_
    rw [convShapeError_of_geometryLegal hgeom, if_pos hin]
  · refine convCheck_of_shapeError hclamp ?_
    rw [convShapeError_of_geometryLegal hgeom, if_neg (not_not.mpr hin), if_pos hout]
  · refine convCheck_of_shapeError hclamp ?_
    rw [convShapeError_of_geometryLegal hgeom, if_neg (not_not.mpr hin), if_neg (not_not.mpr hout),
      if_pos hbatch]
  · rw [convCheck_of_shapesAgree hclamp hgeom hshape, convRegions_eq_map]
    refine ⟨fun hle => addrRangeError_eq_none.mpr (List.forall_mem_map.mpr hle),
      fun pre r post hsplit hpre hr => ?_⟩
    rw [hsplit, List.map_append, List.map_cons]
    exact addrRangeError_append (List.forall_mem_map.mpr hpre) hr

/-! ## UNDEFINED cases -/

/-- A convolution that is not too deep, whose OUT meets no read region and whose regions are ordinary memory
is not UNDEFINED (40_conv R215, 20_memory R106, R124). -/
theorem convUndefined_eq_none {v : Variant} {bias : Bool} {s : State} : convUndefined v bias s = none ↔
    convTooDeep v s.regs = false ∧
    (∀ r ∈ convReadRegions v bias s.regs, (convOut v s.regs).overlaps r = false) ∧
    ordinaryFault s.params (convRegions v bias s.regs) = none := by
  unfold convUndefined
  split_ifs with hdeep halias
  · simp [hdeep]
  · obtain ⟨r, hr, hover⟩ := List.any_eq_true.mp halias
    simpa using fun _ h => absurd (h r hr) (by simp [hover])
  · simpa [hdeep] using fun _ => List.any_eq_false.mp (by simpa using halias)

end Sys2Proof.Machine
end

section
/-! PROOFS. The datapath of 42_requant R283 gives OUTSTAGE of R284: it is RQ of R281, or both lie on the same
side beyond every value that the offset could bring back into the clamp range. -/

namespace Sys2Proof.Machine

theorem clamp_of_le {x lo hi : Int} (h : x ≤ lo) (hle : lo ≤ hi) : clamp x lo hi = lo := by
  unfold clamp
  split_ifs <;> omega

theorem clamp_of_ge {x lo hi : Int} (h : hi ≤ x) (hle : lo ≤ hi) : clamp x lo hi = hi := by
  unfold clamp
  split_ifs <;> omega

theorem clamp_of_mem {x lo hi : Int} (hlo : lo ≤ x) (hhi : x ≤ hi) : clamp x lo hi = x := by
  unfold clamp
  split_ifs <;> omega

theorem le_clamp {x lo hi : Int} (hle : lo ≤ hi) : lo ≤ clamp x lo hi := by
  unfold clamp
  split_ifs <;> omega

theorem clamp_le {x lo hi : Int} (hle : lo ≤ hi) : clamp x lo hi ≤ hi := by
  unfold clamp
  split_ifs <;> omega

/-- Two values that are equal, or that lie beyond a bound on the same side. -/
abbrev AgreeWithin (b x y : Int) : Prop := x = y ∨ (b ≤ x ∧ b ≤ y) ∨ (x ≤ -b ∧ y ≤ -b)

/-- Such values are clamped alike, whatever is added that keeps them beyond the clamp range. -/
theorem AgreeWithin.clamp_add {b x y off lo hi : Int} (h : AgreeWithin b x y) (hle : lo ≤ hi)
    (hlo : -b + off ≤ lo) (hhi : hi ≤ b + off) : clamp (x + off) lo hi = clamp (y + off) lo hi := by
  obtain rfl | ⟨hx, hy⟩ | ⟨hx, hy⟩ := h
  · rfl
  · rw [clamp_of_ge (by omega) hle, clamp_of_ge (by omega) hle]
  · rw [clamp_of_le (by omega) hle, clamp_of_le (by omega) hle]

theorem AgreeWithin.clamp_self {b : Int} (hb : 0 ≤ b) (x : Int) :
    AgreeWithin b (clamp x (-b) b) x := by
  obtain h | h | h : x ≤ -b ∨ b ≤ x ∨ (-b ≤ x ∧ x ≤ b) := by omega
  · exact .inr (.inr ⟨(clamp_of_le h (by omega)).le, h⟩)
  · exact .inr (.inl ⟨(clamp_of_ge h (by omega)).ge, h⟩)
  · exact .inl (clamp_of_mem h.1 h.2)

/-- A left shift by more than K bits, of which only K are made, saturates every product but 0 (42_requant
R283). -/
theorem AgreeWithin.leftShift (z : Int) (n k : Nat) :
    AgreeWithin (2 ^ k) (clamp (z * 2 ^ min n k) (-(2 ^ k)) (2 ^ k)) (z * 2 ^ n) := by
  have hk : (0 : Int) < 2 ^ k := by positivity
  obtain hn | hn := le_total n k
  · rw [min_eq_left hn]
    exact .clamp_self hk.le _
  · rw [min_eq_right hn]
    have hpow : (2 : Int) ^ k ≤ 2 ^ n := pow_le_pow_right₀ (by norm_num) hn
    obtain rfl | hz | hz : z = 0 ∨ 1 ≤ z ∨ z ≤ -1 := by omega
    · left
      simp only [zero_mul]
      exact clamp_of_mem (by omega) hk.le
    · refine .inr (.inl ⟨(clamp_of_ge ?_ (by omega)).ge, ?_⟩) <;> nlinarith
    · refine .inr (.inr ⟨(clamp_of_le ?_ (by omega)).le, ?_⟩) <;> nlinarith

/-- The rounding shift of a product below half the divisor is 0. -/
theorem rounded_shift_eq_zero {z : Int} {n : Nat} (hn : 96 ≤ n) (hlo : -(2 ^ 94) ≤ z)
    (hhi : z ≤ 2 ^ 94) : (z + 2 ^ (n - 1)) / 2 ^ n = 0 := by
  have hhalf : (2 : Int) ^ 95 ≤ 2 ^ (n - 1) := pow_le_pow_right₀ (by norm_num) (by omega)
  have hpow : (2 : Int) ^ n = 2 * 2 ^ (n - 1) := (mul_pow_sub_one (by omega) 2).symm
  exact Int.ediv_eq_zero_of_lt (by omega) (by omega)

/-- The datapath and RQ agree within ±2^33 (42_requant R283). -/
theorem rqDatapath_agree {x m : Int} (s : Int) (hlo : -(2 ^ 94) ≤ x * m) (hhi : x * m ≤ 2 ^ 94) :
    AgreeWithin (2 ^ 33) (rqDatapath x m s) (rq x m s) := by
  unfold rqDatapath rq
  split_ifs with hbig hright hright
  · exact .inl (rounded_shift_eq_zero (by omega) hlo hhi).symm
  · omega
  · exact .inl rfl
  · exact .leftShift (x * m) (s - 31).toNat leftBits

/-- A 64-bit accumulator times a 32-bit multiplier. -/
theorem abs_product_le (x : BitVec 64) {m : Int} (hlo : -(2 ^ 31) ≤ m) (hhi : m < 2 ^ 31) :
    -(2 ^ 94) ≤ x.toInt * m ∧ x.toInt * m ≤ 2 ^ 94 := by
  have hxlo := x.le_toInt
  have hxhi := x.toInt_lt
  refine abs_le.mp ?_
  calc |x.toInt * m| = |x.toInt| * |m| := abs_mul _ _
    _ ≤ 2 ^ 63 * 2 ^ 31 := mul_le_mul (abs_le.mpr ⟨by omega, by omega⟩)
        (abs_le.mpr ⟨by omega, by omega⟩) (abs_nonneg _) (by norm_num)
    _ = 2 ^ 94 := by norm_num

/-- OUTSTAGE on the datapath is the clamp of RQ plus the offset (42_requant R284). -/
theorem outstage_eq_clamp_rq (x : BitVec 64) {m s off lo hi : Int} (hm : -(2 ^ 31) ≤ m ∧ m < 2 ^ 31)
    (hoff : -(2 ^ 31) ≤ off ∧ off < 2 ^ 31) (hlo : -32768 ≤ lo) (hle : lo ≤ hi) (hhi : hi ≤ 32767) :
    outstage x.toInt m s off lo hi = clamp (rq x.toInt m s + off) lo hi := by
  obtain ⟨hprodlo, hprodhi⟩ := abs_product_le x hm.1 hm.2
  exact (rqDatapath_agree s hprodlo hprodhi).clamp_add hle (by omega) (by omega)

end Sys2Proof.Machine
end

section
/-! PROOFS. The value of an output element (40_conv R204 to R211): the accumulator the loop nest leaves is
the exact sum of the products and the bias, wrapped once. -/

namespace Sys2Proof.Machine

open Claim

/-! ## Loads are in range (00_scope R11, R15) -/

theorem memRead_lt (s : State) (a n : Nat) : memRead s a n < 2 ^ (8 * n) := by
  induction n generalizing a with
  | zero => simp [memRead]
  | succ n ih =>
    have hbyte := (engineByte s a).isLt
    have hrest := ih (a + 1)
    rw [memRead, Nat.mul_succ, pow_add]
    omega

theorem signedOf_range {w p : Nat} (hw : 0 < w) (hp : p < 2 ^ w) :
    -(2 ^ (w - 1)) ≤ signedOf w p ∧ signedOf w p < 2 ^ (w - 1) := by
  have hpow : (2 : Int) ^ w = 2 * 2 ^ (w - 1) := (mul_pow_sub_one hw.ne' 2).symm
  have hcast : ((2 ^ (w - 1) : Nat) : Int) = 2 ^ (w - 1) := by push_cast; rfl
  have hp' : (p : Int) < 2 ^ w := by exact_mod_cast hp
  unfold signedOf
  split_ifs <;> omega

theorem loadS_range (s : State) (a : Nat) {n : Nat} (hn : 0 < n) :
    -(2 ^ (8 * n - 1)) ≤ loadS s a n ∧ loadS s a n < 2 ^ (8 * n - 1) :=
  signedOf_range (by omega) (memRead_lt s a n)

/-- `signed_W` of `wrap_W` is the balanced remainder (00_scope R11). -/
theorem wrapSigned_eq_bmod {w : Nat} (hw : 0 < w) (x : Int) : wrapSigned w x = x.bmod (2 ^ w) := by
  have hpow : (2 : Int) ^ w = 2 * 2 ^ (w - 1) := (mul_pow_sub_one hw.ne' 2).symm
  have hcast : ((2 ^ (w - 1) : Nat) : Int) = 2 ^ (w - 1) := by push_cast; rfl
  have hnonneg : 0 ≤ x % 2 ^ w := Int.emod_nonneg x (by positivity)
  rw [wrapSigned, signedOf, Int.bmod_def]
  push_cast
  split_ifs <;> omega

/-- A value that fits is not changed by wrapping. -/
theorem wrapSigned_of_fits {w : Nat} {x : Int} (hw : 0 < w) (hlo : -(2 ^ (w - 1)) ≤ x)
    (hhi : x < 2 ^ (w - 1)) : wrapSigned w x = x :=
  signedOf_of_emod hw (Int.toNat_of_nonneg (Int.emod_nonneg x (by positivity))) hlo hhi

/-! ## The accumulator (40_conv R205 to R208) -/

/-- The accumulator holds a sum wrapped to its width. -/
def Accumulates (v : Variant) (acc : BitVec 64) (x : Int) : Prop := acc.toInt = x.bmod (2 ^ v.wacc)

theorem accumulates_zero (v : Variant) : Accumulates v 0#64 0 := by
  simp [Accumulates]

theorem accumulates_accWrap (v : Variant) (x : Int) : Accumulates v (accWrap v x) x := by
  cases v with
  | s8 => exact (BitVec.toInt_signExtend_of_le (by decide)).trans (BitVec.toInt_ofInt x)
  | s16 => exact BitVec.toInt_ofInt x

section
variable {v : Variant} {acc : BitVec 64} {x : Int}

/-- An addition wraps once, whatever has wrapped before. -/
theorem Accumulates.add (h : Accumulates v acc x) (y : Int) :
    Accumulates v (accWrap v (acc.toInt + y)) (x + y) := by
  rw [Accumulates, accumulates_accWrap, show acc.toInt = _ from h, Int.bmod_add_bmod]

/-- Wrapping again changes nothing. -/
theorem Accumulates.accWrap_toInt (h : Accumulates v acc x) : accWrap v acc.toInt = acc := by
  apply BitVec.eq_of_toInt_eq
  rw [accumulates_accWrap, show acc.toInt = _ from h, Int.bmod_bmod]

theorem Accumulates.toInt_eq (h : Accumulates v acc x) : acc.toInt = wrapSigned v.wacc x := by
  rw [wrapSigned_eq_bmod (by cases v <;> decide)]
  exact h

end

/-! ## The taps of an output element (40_conv R206, R207) -/

/-- What tap `t` adds to output element `e`, by the flat indices of the loop position. -/
abbrev tapTermAt (v : Variant) (s : State) (e t : Nat) : Int :=
  tapTerm v s (outBatch s.regs e) (outY s.regs e) (outX s.regs e) (outC s.regs e)
    (tapKy s.regs t) (tapKx s.regs t)

theorem tapInside_iff (g : Regs) (e t : Nat) : tapInside g e t = true ↔
    InBounds g (outY g e) (outX g e) (tapKy g t) (tapKx g t) :=
  decide_eq_true_iff

/-- The reduction is the exact sum of its lanes (41_dot R252). -/
theorem reduce_eq_sum (s : State) (v : Variant) (pa pw : Nat) (off : Int) (n : Nat) :
    reduce s v pa pw off 0 n = ∑ i ∈ Finset.range n, lane s v pa pw off i := by
  rw [reduce, ← List.range_eq_range']
  rfl

/-- The channel reduction of an in-bounds tap in coordinates (40_conv R207). -/
theorem tapSum_eq_tapTermAt {v : Variant} {s : State} {e t : Nat}
    (h : tapInside s.regs e t = true) : tapSum v s e t 0 s.regs.inC.toNat = tapTermAt v s e t := by
  rw [tapSum, reduce_eq_sum, tapTermAt, tapTerm, if_pos ((tapInside_iff _ _ _).mp h)]
  refine Finset.sum_congr rfl fun ic _ => ?_
  rw [lane, inputOf, tapInAddr, tapFltAddr, Nat.add_assoc, ← Nat.mul_add, Nat.add_assoc]
  rfl

theorem Accumulates.accTap {v : Variant} {s : State} {acc : BitVec 64} {x : Int} (e t : Nat)
    (h : Accumulates v acc x) :
    Accumulates v (accTap v s e acc t 0) (x + tapTermAt v s e t) := by
  unfold Machine.accTap
  split
  next hin =>
    rw [Nat.sub_zero, tapSum_eq_tapTermAt hin.1]
    exact h.add _
  next hout =>
    have hzero : tapTermAt v s e t = 0 := by
      rw [tapTermAt, tapTerm]
      split
      next hin =>
        have hc : s.regs.inC.toNat = 0 :=
          Nat.eq_zero_of_not_pos fun hpos => hout ⟨(tapInside_iff _ _ _).mpr hin, hpos⟩
        rw [hc, Finset.sum_range_zero]
      · rfl
    rwa [hzero, add_zero]

theorem Accumulates.foldl_accTap {v : Variant} {s : State} {acc : BitVec 64} {x : Int} (e : Nat)
    (taps : List Nat) (h : Accumulates v acc x) :
    Accumulates v (taps.foldl (fun a t => Machine.accTap v s e a t 0) acc)
      (x + (taps.map (tapTermAt v s e)).sum) := by
  induction taps generalizing acc x with
  | nil => simpa using h
  | cons t taps ih =>
    rw [List.map_cons, List.sum_cons, ← add_assoc]
    exact ih (h.accTap e t)

/-- From its first tap on, an output element takes every tap in loop order. -/
theorem accFrom_start (v : Variant) (s : State) (e : Nat) (acc : BitVec 64) :
    accFrom v s e 0 0 acc =
      (List.range (tapCount s.regs)).foldl (fun a t => accTap v s e a t 0) acc := by
  unfold accFrom
  cases tapCount s.regs with
  | zero => rfl
  | succ n => rw [if_pos n.succ_pos, List.range_eq_range', List.range'_succ]; rfl

/-- A sum over the flat index of two coordinates (00_scope R16). -/
theorem sum_range_mul_eq (f : Nat → Nat → Int) (m n : Nat) :
    ∑ t ∈ Finset.range (m * n), f (t / n) (t % n) =
      ∑ y ∈ Finset.range m, ∑ x ∈ Finset.range n, f y x := by
  induction m with
  | zero => simp
  | succ m ih =>
    rw [Nat.succ_mul, Finset.sum_range_add, ih, Finset.sum_range_succ]
    congr 1
    refine Finset.sum_congr rfl fun x hx => ?_
    have hx := Finset.mem_range.mp hx
    rw [Nat.mul_add_mod_of_lt hx, Nat.mul_comm, Nat.mul_add_div (by omega), Nat.div_eq_of_lt hx,
      Nat.add_zero]

/-- The taps leave the exact sum of the products, wrapped once (40_conv R206, R207). -/
theorem accumulates_accFrom (v : Variant) (s : State) (e : Nat) :
    Accumulates v (accFrom v s e 0 0 0#64)
      (convSum v s (outBatch s.regs e) (outY s.regs e) (outX s.regs e) (outC s.regs e)) := by
  have htaps := (accumulates_zero v).foldl_accTap (s := s) e (List.range (tapCount s.regs))
  rw [accFrom_start, convSum, ← sum_range_mul_eq]
  rwa [zero_add] at htaps

/-- The bias is added (40_conv R208). -/
theorem Accumulates.accBias {v : Variant} {s : State} {acc : BitVec 64} {x : Int} (bias : Bool)
    (e : Nat) (h : Accumulates v acc x) :
    Accumulates v (accBias v bias s e acc) (x + biasTerm v bias s (outC s.regs e)) := by
  cases bias with
  | false => simpa [Machine.accBias, biasTerm] using h
  | true => exact h.add _

theorem ooff_range (v : Variant) (g : Regs) : -(2 ^ 31) ≤ v.ooff g ∧ v.ooff g < 2 ^ 31 := by
  cases v with
  | s8 => exact ⟨g.outputOffset.le_toInt, g.outputOffset.toInt_lt⟩
  | s16 => simp [Variant.ooff]

/-- The value of an output element is the one of R204 to R211 at its coordinates. -/
theorem convValue_eq_convOutput {v : Variant} {bias : Bool} {s : State} (e : Nat)
    (hclamp : ClampLegal v.loType v.hiType s.regs) :
    convValue v s e (accBias v bias s e (accFrom v s e 0 0 0#64)) =
      convOutput v bias s (outBatch s.regs e) (outY s.regs e) (outX s.regs e) (outC s.regs e) := by
  obtain ⟨hlo, hle, hhi⟩ := hclamp
  have hlo' : -32768 ≤ v.loType := by cases v <;> decide
  have hhi' : v.hiType ≤ 32767 := by cases v <;> decide
  have hacc := (accumulates_accFrom v s e).accBias (s := s) bias e
  rw [convValue, outstage_eq_clamp_rq _ (loadS_range s _ (by decide)) (ooff_range v _) (by omega) hle
    (by omega), hacc.toInt_eq]
  rfl

end Sys2Proof.Machine
end

section
/-! PROOFS. The convolutions complete with every output element in its place (40_conv R212, R213, R218, R219,
R220, R221). -/

namespace Sys2Proof.Machine

open Claim

/-! ## Coordinates of an output element (40_conv R203, 00_scope R16) -/

/-- The index of an output element in the tensor OUT. -/
def elemIndex (g : Regs) (b oy ox oc : Nat) : Nat :=
  ((b * g.outH.toNat + oy) * g.outW.toNat + ox) * g.outC.toNat + oc

section
variable {g : Regs} {b oy ox oc : Nat}

theorem elemIndex_lt (hb : b < g.inN.toNat) (hy : oy < g.outH.toNat) (hx : ox < g.outW.toNat)
    (hc : oc < g.outC.toNat) : elemIndex g b oy ox oc < convCount g :=
  index_lt (index_lt (index_lt hb hy) hx) hc

/-- A row-major index divided by the last dimension is the index before it. -/
theorem index_div {x y n : Nat} (hy : y < n) : (x * n + y) / n = x := by
  rw [Nat.mul_comm, Nat.mul_add_div (by omega), Nat.div_eq_of_lt hy, Nat.add_zero]

theorem outC_elemIndex (hc : oc < g.outC.toNat) : outC g (elemIndex g b oy ox oc) = oc :=
  Nat.mul_add_mod_of_lt hc

theorem outX_elemIndex (hx : ox < g.outW.toNat) (hc : oc < g.outC.toNat) :
    outX g (elemIndex g b oy ox oc) = ox := by
  rw [outX, elemIndex, index_div hc, Nat.mul_add_mod_of_lt hx]

theorem outY_elemIndex (hy : oy < g.outH.toNat) (hx : ox < g.outW.toNat) (hc : oc < g.outC.toNat) :
    outY g (elemIndex g b oy ox oc) = oy := by
  rw [outY, elemIndex, Nat.mul_comm g.outW.toNat, ← Nat.div_div_eq_div_mul, index_div hc,
    index_div hx, Nat.mul_add_mod_of_lt hy]

theorem outBatch_elemIndex (hy : oy < g.outH.toNat) (hx : ox < g.outW.toNat)
    (hc : oc < g.outC.toNat) : outBatch g (elemIndex g b oy ox oc) = b := by
  rw [outBatch, elemIndex, Nat.mul_comm (_ * _), Nat.mul_comm g.outH.toNat,
    ← Nat.div_div_eq_div_mul, ← Nat.div_div_eq_div_mul, index_div hc, index_div hx, index_div hy]

end

/-! ## The two commands as one -/

/-- CONV_S8 or CONV_S16 (40_conv R213, R220, R221). -/
def convInstr : Variant → Bool → Instr
  | .s8, bias => .convS8 bias
  | .s16, bias => .convS16 bias

section
variable (v : Variant) (bias : Bool) (s : State)

@[simp] theorem startCheck_convInstr : startCheck (convInstr v bias) s = convCheck v bias s := by
  cases v <;> rfl

@[simp] theorem startUndefined_convInstr :
    startUndefined (convInstr v bias) s = convUndefined v bias s := by
  cases v <;> rfl

@[simp] theorem workLeft_convInstr : workLeft (Running.start (convInstr v bias)) s =
    convWork v bias (Running.start (convInstr v bias)) s := by
  cases v <;> rfl

@[simp] theorem resultRegs_convInstr :
    resultRegs (Running.start (convInstr v bias)) s = s.regs := by
  cases v <;> rfl

@[simp] theorem readRegions_convInstr :
    readRegions (convInstr v bias) s.regs = convReadRegions v bias s.regs := by
  cases v <;> rfl

@[simp] theorem writeRegions_convInstr :
    writeRegions (convInstr v bias) s.regs = [convOut v s.regs] := by
  cases v <;> rfl

end

/-! ## The bytes of OUT -/

/-- The whole work of a convolution is its output elements in loop order (40_conv R203). -/
theorem convWork_start (v : Variant) (bias : Bool) (i : Instr) (s : State) :
    convWork v bias (Running.start i) s = ⟨[], [], []⟩ ::
      (List.range (convCount s.regs)).map fun e => convUnit v bias s e 0 0 0#64 := by
  unfold convWork
  congr 1
  cases convCount s.regs with
  | zero => rfl
  | succ n =>
    rw [List.range_eq_range', List.range'_succ]
    exact if_pos n.succ_pos

/-- The bytes a convolution stores: those of each output element in loop order (40_conv R212). -/
theorem workCells_convWork_start (v : Variant) (bias : Bool) (i : Instr) (s : State) :
    workCells (convWork v bias (Running.start i) s) =
      (List.range (convCount s.regs)).flatMap fun e =>
        convCells v bias s e (accFrom v s e 0 0 0#64) := by
  rw [convWork_start, workCells, List.flatMap_cons, List.nil_append, List.flatMap_map]
  rfl

/-- Two elements of an array have no byte in common. -/
theorem elementCells_addrs_disjoint {base n i j : Nat} (x y : Int) (hij : i ≠ j) :
    List.Disjoint ((elementCells (base + n * i) n x).map (·.1))
      ((elementCells (base + n * j) n y).map (·.1)) := by
  rw [elementCells_addrs, elementCells_addrs]
  intro a ha hb
  obtain ⟨k, hk, rfl⟩ := List.mem_map.mp ha
  obtain ⟨l, hl, hkl⟩ := List.mem_map.mp hb
  have hk := List.mem_range.mp hk
  have hl := List.mem_range.mp hl
  have heq : n * i + k = n * j + l := by omega
  apply hij
  rw [← index_div (x := i) hk, ← index_div (x := j) hl, Nat.mul_comm i, Nat.mul_comm j, heq]

/-- A convolution stores each byte once (40_conv R218). -/
theorem workCells_convWork_nodup (v : Variant) (bias : Bool) (i : Instr) (s : State) :
    ((workCells (convWork v bias (Running.start i) s)).map (·.1)).Nodup := by
  rw [workCells_convWork_start, List.map_flatMap, List.nodup_flatMap]
  exact ⟨fun e _ => elementCells_addrs_nodup _ _ _,
    List.nodup_range.imp fun hne => elementCells_addrs_disjoint _ _ hne⟩

/-- Every output element is in memory when the work is stored. -/
theorem read_convWork {v : Variant} {bias : Bool} {i : Instr} {s : State} {b oy ox oc k : Nat}
    (hclamp : ClampLegal v.loType v.hiType s.regs) (hwf : s.mem.wf = true)
    (hb : b < s.regs.inN.toNat) (hy : oy < s.regs.outH.toNat) (hx : ox < s.regs.outW.toNat)
    (hc : oc < s.regs.outC.toNat) (hk : k < v.es) :
    (s.mem.writeCells (workCells (convWork v bias (Running.start i) s))).read
        (convAddress v s.regs b oy ox oc + k) =
      BitVec.ofInt 8 (convOutput v bias s b oy ox oc / 2 ^ (8 * k)) := by
  refine Memory.read_writeCells_mem _ _ _ _ hwf ?_ (workCells_convWork_nodup v bias i s)
  rw [workCells_convWork_start]
  refine List.mem_flatMap.mpr ⟨elemIndex s.regs b oy ox oc,
    List.mem_range.mpr (elemIndex_lt hb hy hx hc), ?_⟩
  have hvalue := convValue_eq_convOutput (bias := bias) (elemIndex s.regs b oy ox oc) hclamp
  rw [outBatch_elemIndex hy hx hc, outY_elemIndex hy hx hc, outX_elemIndex hx hc,
    outC_elemIndex hc] at hvalue
  rw [convCells, hvalue]
  exact mem_elementCells _ hk

/-! ## The commands -/

section
variable {v : Variant} {bias : Bool} {s : State}

theorem convCheck_eq_none_of_legal (hclamp : ClampLegal v.loType v.hiType s.regs)
    (hgeom : GeometryLegal s.regs) (hshape : ShapesAgree s.regs)
    (hspace : ∀ r ∈ convRegions v bias s.regs, r.base + r.size ≤ 2 ^ 32) :
    convCheck v bias s = none := by
  rw [convCheck_of_shapesAgree hclamp hgeom hshape]
  exact addrRangeError_eq_none.mpr hspace

/-- A convolution that passes its checks and is answered completes with its output in place. -/
theorem convCompletes (hc : convCheck v bias s = none) (hu : convUndefined v bias s = none)
    (ha : Answers (convInstr v bias) s) (hi : interleaved s = false)
    (hclamp : ClampLegal v.loType v.hiType s.regs) (hwf : s.mem.wf = true) :
    ConvCompletes v bias (convInstr v bias) s := by
  have hexec := exec_completes ((startCheck_convInstr v bias s).trans hc)
    ((startUndefined_convInstr v bias s).trans hu) ha hi
  refine ⟨_, _, hexec.trans (by rw [resultRegs_convInstr]),
    fun hcoh => staleAfter_of_coherent hcoh _, ?_, fun a hw => read_exec_outside hexec hw⟩
  rw [workLeft_convInstr]
  exact fun b hb oy hy ox hx oc hc k hk => read_convWork hclamp hwf hb hy hx hc hk

end

/-- Settles O24: the checks pass, no case is UNDEFINED, and the depth is below 2^16 (40_conv R215). -/
theorem convS8Result : Obligations.ConvS8Result := by
  intro bias s hclamp hgeom hshape hspace halias hord hdepth ha hi hwf
  have hundef : convUndefined .s8 bias s = none := convUndefined_eq_none.mpr
    ⟨decide_eq_false (Nat.not_le.mpr hdepth), halias _ (List.mem_singleton.mpr rfl),
      ordinaryFault_eq_none.mpr hord⟩
  exact convCompletes (convCheck_eq_none_of_legal hclamp hgeom hshape hspace) hundef ha hi hclamp hwf

/-- Settles O25: as for CONV_S8, without a bound on the depth (40_conv R216). -/
theorem convS16Result : Obligations.ConvS16Result := by
  intro bias s hclamp hgeom hshape hspace halias hord ha hi hwf
  have hundef : convUndefined .s16 bias s = none := convUndefined_eq_none.mpr
    ⟨rfl, halias _ (List.mem_singleton.mpr rfl), ordinaryFault_eq_none.mpr hord⟩
  exact convCompletes (convCheck_eq_none_of_legal hclamp hgeom hshape hspace) hundef ha hi hclamp hwf

end Sys2Proof.Machine
end

section
/-! PROOFS. What follows for a convolution: its stored output reads back (40_conv R214), the CONV_S8 sum fits
its accumulator (R215), an absent bias is a zero bias (R222), and an empty output touches nothing (R224). -/

namespace Sys2Proof.Machine

open Claim

/-! ## The store never wraps (40_conv R214) -/

/-- Settles O44: the output stage clamps, and the bytes of a value in the element's range are loaded as it. -/
theorem storedOutputNeverWraps : Obligations.StoredOutputNeverWraps := by
  intro v bias s t b oy ox oc ⟨hlo, hle, hhi⟩ hcoh o a hbytes
  have holo : s.regs.actMin.toInt ≤ o := le_clamp hle
  have hohi : o ≤ s.regs.actMax.toInt := clamp_le hle
  have hes : 0 < v.es := by cases v <;> decide
  have htypelo : -(2 ^ (8 * v.es - 1)) ≤ v.loType := by cases v <;> decide
  have htypehi : v.hiType < 2 ^ (8 * v.es - 1) := by cases v <;> decide
  refine ⟨holo, hohi, loadS_of_bytes hes (fun k hk => ?_) (by omega) (by omega)⟩
  rw [engineByte_of_coherent hcoh, hbytes k hk]

/-! ## The sum of CONV_S8 fits 32 bits (40_conv R215) -/

theorem abs_sum_range_le {f : Nat → Int} {n : Nat} {c : Int} (h : ∀ k < n, |f k| ≤ c) :
    |∑ k ∈ Finset.range n, f k| ≤ n * c := by
  calc |∑ k ∈ Finset.range n, f k| ≤ ∑ k ∈ Finset.range n, |f k| := Finset.abs_sum_le_sum_abs _ _
    _ ≤ (Finset.range n).card • c :=
      Finset.sum_le_card_nsmul _ _ _ fun k hk => h k (Finset.mem_range.mp hk)
    _ = n * c := by rw [Finset.card_range, nsmul_eq_mul]

/-- A product of an offset input and a filter element (40_conv R215). -/
theorem abs_lane_le {x : Int} (hlo : -255 ≤ x) (hhi : x ≤ 255) (s : State) (a : Nat) :
    |x * loadS s a 1| ≤ 32640 := by
  obtain ⟨hwlo, hwhi⟩ := loadS_range s a (n := 1) (by decide)
  calc |x * loadS s a 1| = |x| * |loadS s a 1| := abs_mul _ _
    _ ≤ 255 * 128 := mul_le_mul (abs_le.mpr ⟨hlo, hhi⟩) (abs_le.mpr ⟨by omega, by omega⟩)
        (abs_nonneg _) (by decide)
    _ = 32640 := by norm_num

theorem abs_tapTerm_le {s : State} {b oy ox oc ky kx : Nat}
    (h : InBounds s.regs oy ox ky kx → ∀ ic < s.regs.inC.toNat,
      -255 ≤ inputOf .s8 s b oy ox ky kx ic + s.regs.inputOffset.toInt ∧
        inputOf .s8 s b oy ox ky kx ic + s.regs.inputOffset.toInt ≤ 255) :
    |tapTerm .s8 s b oy ox oc ky kx| ≤ s.regs.inC.toNat * 32640 := by
  rw [tapTerm]
  split
  next hin => exact abs_sum_range_le fun ic hic => abs_lane_le (h hin ic hic).1 (h hin ic hic).2 s _
  · rw [abs_zero]; positivity

/-- Settles O45: each product is at most 255 × 128 in magnitude, and there are fewer than 2^16. -/
theorem convS8SumFitsTheAccumulator : Obligations.ConvS8SumFitsTheAccumulator := by
  intro s b oy ox oc hdepth hinputs
  have hsum : |convSum .s8 s b oy ox oc| ≤
      s.regs.fltKH.toNat * (s.regs.fltKW.toNat * (s.regs.inC.toNat * 32640)) :=
    abs_sum_range_le fun ky hky => abs_sum_range_le fun kx hkx =>
      abs_tapTerm_le (hinputs ky hky kx hkx)
  have hbound : |convSum .s8 s b oy ox oc| ≤ 2139062400 := by
    calc _ ≤ ((s.regs.fltKH.toNat * s.regs.fltKW.toNat * s.regs.inC.toNat : Nat) : Int) * 32640 :=
          hsum.trans_eq (by push_cast; ring)
      _ ≤ 65535 * 32640 := by omega
      _ = 2139062400 := by norm_num
  obtain ⟨hlo, hhi⟩ := abs_le.mp hbound
  exact ⟨hlo, hhi, wrapSigned_of_fits (by decide) (by omega) (by omega)⟩

/-! ## Without bias (40_conv R222) -/

/-- A zero bias leaves the accumulator, which has wrapped already. -/
theorem accBias_zero {v : Variant} {s : State} {e : Nat}
    (h : loadS s (s.regs.biasAddr.toNat + v.bs * outC s.regs e) v.bs = 0) :
    accBias v true s e (accFrom v s e 0 0 0#64) = accFrom v s e 0 0 0#64 := by
  rw [accBias, if_pos rfl, h, add_zero, (accumulates_accFrom v s e).accWrap_toInt]

/-- The bytes stored without a bias are those stored with a zero bias. -/
theorem workCells_convWork_zeroBias {v : Variant} {s : State} {i j : Instr}
    (h : ∀ oc < s.regs.outC.toNat, loadS s (s.regs.biasAddr.toNat + v.bs * oc) v.bs = 0) :
    workCells (convWork v false (Running.start i) s) =
      workCells (convWork v true (Running.start j) s) := by
  rw [workCells_convWork_start, workCells_convWork_start]
  refine List.flatMap_congr fun e he => ?_
  rw [convCells, convCells, accBias_zero (h _ (outC_lt (List.mem_range.mp he)))]
  rfl

/-- Without a bias a convolution has the regions it has with one, but BIAS (20_memory R107). -/
theorem convReadRegions_false_subset (v : Variant) (g : Regs) :
    convReadRegions v false g ⊆ convReadRegions v true g := by
  intro r hr
  simp only [convReadRegions, List.mem_append] at hr ⊢
  tauto

theorem convRegions_false_subset (v : Variant) (g : Regs) :
    convRegions v false g ⊆ convRegions v true g := fun _ hr =>
  List.mem_append.mpr ((List.mem_append.mp hr).imp_left fun h => convReadRegions_false_subset v g h)

section
variable {v : Variant} {s : State}

theorem convCheck_without_bias (h : convCheck v true s = none) : convCheck v false s = none := by
  simp only [convCheck, Option.or_eq_none_iff, addrRangeError_eq_none] at h ⊢
  obtain ⟨hclamp, hshape, hspace⟩ := h
  exact ⟨hclamp, hshape, fun r hr => hspace r (convRegions_false_subset v _ hr)⟩

theorem convUndefined_without_bias (h : convUndefined v true s = none) :
    convUndefined v false s = none := by
  rw [convUndefined_eq_none, ordinaryFault_eq_none] at h ⊢
  obtain ⟨hdepth, halias, hord⟩ := h
  exact ⟨hdepth, fun r hr => halias r (convReadRegions_false_subset v _ hr),
    fun r hr => hord r (convRegions_false_subset v _ hr)⟩

theorem answers_without_bias (h : Answers (convInstr v true) s) : Answers (convInstr v false) s := by
  simp only [Answers, readRegions_convInstr, writeRegions_convInstr] at h ⊢
  exact ⟨fun r hr => h.1 r (convReadRegions_false_subset v _ hr), h.2⟩

/-- A convolution without a bias does what it does with a zero bias. -/
theorem exec_convInstr_zeroBias (hc : convCheck v true s = none) (hu : convUndefined v true s = none)
    (ha : Answers (convInstr v true) s) (hi : interleaved s = false)
    (hbias : ∀ oc < s.regs.outC.toNat, loadS s (s.regs.biasAddr.toNat + v.bs * oc) v.bs = 0) :
    exec (convInstr v false) s = exec (convInstr v true) s := by
  rw [exec_completes (by simpa using convCheck_without_bias hc)
      (by simpa using convUndefined_without_bias hu) (answers_without_bias ha) hi,
    exec_completes (by simpa using hc) (by simpa using hu) ha hi]
  simp only [workLeft_convInstr, resultRegs_convInstr]
  rw [workCells_convWork_zeroBias hbias]

end

/-- Settles O46, for both variants. -/
theorem biasAbsentEqualsZeroBias : Obligations.BiasAbsentEqualsZeroBias := by
  intro v s absent present hc hu ha hi hbias
  cases v with
  | s8 => exact exec_convInstr_zeroBias (v := .s8) hc hu ha hi hbias
  | s16 => exact exec_convInstr_zeroBias (v := .s16) hc hu ha hi hbias

/-! ## The empty convolution (40_conv R224) -/

theorem convCount_eq_zero {g : Regs}
    (h : g.inN = 0#16 ∨ g.outH = 0#16 ∨ g.outW = 0#16 ∨ g.outC = 0#16) : convCount g = 0 := by
  obtain h | h | h | h := h <;> simp [convCount, h]

/-- A convolution without output elements makes no access and stores nothing. -/
theorem workLeft_convInstr_empty {v : Variant} {bias : Bool} {s : State} (h : convCount s.regs = 0) :
    workLeft (Running.start (convInstr v bias)) s = [⟨[], [], []⟩] := by
  rw [workLeft_convInstr, convWork_start, h]
  rfl

/-- Settles O47: there is no output element, so that nothing is left to be answered. -/
theorem emptyConvolutionTouchesNothing : Obligations.EmptyConvolutionTouchesNothing := by
  intro i bias s hconv hc hu hi hempty
  obtain ⟨v, rfl⟩ : ∃ v, i = convInstr v bias :=
    hconv.elim (fun h => ⟨.s8, h⟩) fun h => ⟨.s16, h⟩
  have hwork := workLeft_convInstr_empty (v := v) (bias := bias) (convCount_eq_zero hempty)
  have hunit : WorkUnit.answers s.params ⟨[], [], []⟩ = true :=
    (WorkUnit.Within.empty [] []).answers (by simp) (by simp)
  rw [exec_completes_of_answers hc hu hi (by simpa [hwork] using hunit), hwork, resultRegs_convInstr]
  simp [workCells]

end Sys2Proof.Machine
end

section
/-! PROOFS. Work that a step has made: what is left of a command ends it as it would have ended with the units,
or the reads of a unit, that have been answered (60_exceptions R412, R413). -/

namespace Sys2Proof.Machine

/-! ## The accesses of a unit -/

section
variable {p : Params}

/-- A unit hangs when one of its accesses does. -/
theorem hangs_iff {u : WorkUnit} : u.hangs p = true ↔
    (∃ x ∈ u.reads, x.hangs p = true) ∨ ∃ x ∈ u.writes, x.hangs p = true := by
  simp only [WorkUnit.hangs, WorkUnit.readsHang, WorkUnit.writesHang, Bool.or_eq_true,
    List.any_eq_true]

/-- A unit answers when each of its accesses gets its data or is stored. -/
theorem answers_iff_accesses {u : WorkUnit} : u.answers p = true ↔
    (∀ x ∈ u.reads, x.errAddrs p .errorOnRead = [] ∧ x.hangs p = false) ∧
      ∀ x ∈ u.writes, x.errAddrs p .errorOnWrite = [] ∧ x.hangs p = false := by
  simp only [answers_iff, WorkUnit.errAddrs, WorkUnit.readErrAddrs, WorkUnit.writeErrAddrs,
    List.append_eq_nil_iff, List.flatMap_eq_nil_iff, ← Bool.not_eq_true, hangs_iff, not_or,
    not_exists, not_and, forall₂_and]
  tauto

end

/-! ## Work that ends a command alike -/

/-- What is left of a command ends it in the same way: the same accesses are met, the same bytes stored by a
completion, and the same by an abort. -/
structure EndsAlike (p : Params) (work work' : List WorkUnit) : Prop where
  met : ∀ w, exposed p w work' = exposed p w work
  cells : workCells work' = workCells work
  aborted : ∀ k, abortedCells p k work' = abortedCells p k work

theorem EndsAlike.refl (p : Params) (work : List WorkUnit) : EndsAlike p work work :=
  ⟨fun _ => rfl, rfl, fun _ => rfl⟩

theorem workCells_append (done rest : List WorkUnit) :
    workCells (done ++ rest) = workCells done ++ workCells rest :=
  List.flatMap_append

section
variable {p : Params}

/-- A unit that answers gets the data of its reads. -/
theorem readsReturn_of_answers {u : WorkUnit} (h : u.answers p = true) : u.readsReturn p = true := by
  obtain ⟨herr, hhang⟩ := (answers_iff p u).mp h
  rw [WorkUnit.readsReturn, (List.append_eq_nil_iff.mp herr).1, (Bool.or_eq_false_iff.mp hhang).1]
  rfl

/-- Of units that answer, an abort can leave any of the bytes they store. -/
theorem abortedCells_of_answers {work : List WorkUnit} (k : Nat)
    (h : ∀ u ∈ work, u.answers p = true) :
    abortedCells p k work = (workCells work).filter fun c => Config.tookEffect k c.1 := by
  rw [workCells, List.filter_flatMap]
  exact List.flatMap_congr fun u hu => if_pos (readsReturn_of_answers (h u hu))

/-- Units that answer can stand for others that store the same bytes. -/
theorem EndsAlike.append {done done' rest rest' : List WorkUnit}
    (hd : ∀ u ∈ done, u.answers p = true) (hd' : ∀ u ∈ done', u.answers p = true)
    (hc : workCells done' = workCells done) (h : EndsAlike p rest rest') :
    EndsAlike p (done ++ rest) (done' ++ rest') where
  met w := by rw [exposed_append _ _ _ _ hd, exposed_append _ _ _ _ hd', h.met]
  cells := by rw [workCells_append, workCells_append, hc, h.cells]
  aborted k := by
    have happ : ∀ xs ys, abortedCells p k (xs ++ ys) = abortedCells p k xs ++ abortedCells p k ys :=
      fun xs ys => List.flatMap_append
    rw [happ, happ, abortedCells_of_answers k hd, abortedCells_of_answers k hd', hc, h.aborted]

/-! ## Reads that have been answered -/

/-- The unit with reads that come before its own. -/
def WorkUnit.preceded (done : List Access) (u : WorkUnit) : WorkUnit :=
  { u with reads := done ++ u.reads }

theorem preceded_hangs_of_reads {done : List Access} (u : WorkUnit)
    (h : WorkUnit.hangs p ⟨done, [], []⟩ = true) : (u.preceded done).hangs p = true := by
  obtain ⟨x, hx, hh⟩ | ⟨x, hx, -⟩ := hangs_iff.mp h
  · exact hangs_iff.mpr (.inl ⟨x, List.mem_append_left _ hx, hh⟩)
  · simp at hx

section
variable {done : List Access} (u : WorkUnit) (h : WorkUnit.answers p ⟨done, [], []⟩ = true)
include h

theorem preceded_readErrAddrs : (u.preceded done).readErrAddrs p = u.readErrAddrs p := by
  have hdone : done.flatMap (Access.errAddrs p .errorOnRead) = [] :=
    (List.append_eq_nil_iff.mp ((answers_iff p _).mp h).1).1
  rw [WorkUnit.readErrAddrs, WorkUnit.preceded, List.flatMap_append, hdone, List.nil_append]
  rfl

theorem preceded_readsHang : (u.preceded done).readsHang p = u.readsHang p := by
  have hdone : done.any (Access.hangs p) = false :=
    (Bool.or_eq_false_iff.mp ((answers_iff p _).mp h).2).1
  rw [WorkUnit.readsHang, WorkUnit.preceded, List.any_append, hdone, Bool.false_or]
  rfl

theorem preceded_readsReturn : (u.preceded done).readsReturn p = u.readsReturn p := by
  rw [WorkUnit.readsReturn, preceded_readErrAddrs u h, preceded_readsHang u h]
  rfl

theorem preceded_answers : (u.preceded done).answers p = u.answers p := by
  rw [WorkUnit.answers, WorkUnit.errAddrs, WorkUnit.hangs, preceded_readErrAddrs u h,
    preceded_readsHang u h]
  rfl

/-- A unit ends a command as it would with reads before its own that have been answered. -/
theorem EndsAlike.preceded (rest : List WorkUnit) :
    EndsAlike p (u.preceded done :: rest) (u :: rest) where
  met w := by
    obtain ⟨n, hn⟩ : ∃ n, max 1 w = n + 1 := ⟨max 1 w - 1, by omega⟩
    have hwrites : (u.preceded done).writeErrAddrs p = u.writeErrAddrs p ∧
        (u.preceded done).writesHang p = u.writesHang p := ⟨rfl, rfl⟩
    simp only [exposed, List.dropWhile_cons, preceded_answers u h]
    cases u.answers p with
    | true => rfl
    | false =>
      simp only [hn, Bool.false_eq_true, if_false, List.take_succ_cons, List.takeWhile_cons,
        List.flatMap_cons, List.any_cons, preceded_readErrAddrs u h, preceded_readsHang u h,
        preceded_readsReturn u h]
      cases u.readsReturn p <;> simp [hwrites]
  cells := rfl
  aborted k := by
    rw [abortedCells, List.flatMap_cons, abortedCells, List.flatMap_cons, preceded_readsReturn u h]
    rfl

end

/-! ## Steps -/

/-- A step that makes the accesses of `u` takes the work from `work` to `work'`: its accesses are accesses of
`work`, and when they answer what is left ends the command alike. -/
structure StepsTo (p : Params) (u : WorkUnit) (work work' : List WorkUnit) : Prop where
  hangs : u.hangs p = true → workHangs p work = true
  endsAlike : u.answers p = true → EndsAlike p work work'

/-- A step without accesses that leaves the work as it is. -/
theorem StepsTo.idle (work : List WorkUnit) : StepsTo p ⟨[], [], []⟩ work work where
  hangs h := by simp [hangs_iff] at h
  endsAlike _ := .refl p work

/-- A step that makes part of the reads of a unit. -/
theorem StepsTo.reads (done : List Access) (issued u : WorkUnit) (rest : List WorkUnit)
    (hi : issued.answers p = true) :
    StepsTo p ⟨done, [], []⟩ (issued :: u.preceded done :: rest) (issued :: u :: rest) where
  hangs h := by simp [workHangs, preceded_hangs_of_reads u h]
  endsAlike h := .append (done := [issued]) (done' := [issued]) (by simpa) (by simpa) rfl
    (.preceded u h rest)

section
variable {u : WorkUnit} {units : List WorkUnit} (hr : u.reads = units.flatMap WorkUnit.reads)
  (hw : u.writes = units.flatMap WorkUnit.writes)
include hr hw

theorem workHangs_of_joined_hangs (h : u.hangs p = true) : workHangs p units = true := by
  rw [hangs_iff, hr, hw] at h
  simp only [List.mem_flatMap] at h
  obtain ⟨x, ⟨w, hw, hx⟩, hh⟩ | ⟨x, ⟨w, hw, hx⟩, hh⟩ := h
  · exact List.any_eq_true.mpr ⟨w, hw, hangs_iff.mpr (.inl ⟨x, hx, hh⟩)⟩
  · exact List.any_eq_true.mpr ⟨w, hw, hangs_iff.mpr (.inr ⟨x, hx, hh⟩)⟩

theorem answers_of_joined_answers (h : u.answers p = true) : ∀ w ∈ units, w.answers p = true := by
  rw [answers_iff_accesses, hr, hw] at h
  exact fun w hw => answers_iff_accesses.mpr
    ⟨fun x hx => h.1 x (List.mem_flatMap.mpr ⟨w, hw, hx⟩),
      fun x hx => h.2 x (List.mem_flatMap.mpr ⟨w, hw, hx⟩)⟩

/-- A step that makes all accesses of some units, whose bytes are then among those issued. -/
theorem StepsTo.joined {issued issued' : List WorkUnit} (rest : List WorkUnit)
    (hi : ∀ x ∈ issued, x.answers p = true) (hi' : ∀ x ∈ issued', x.answers p = true)
    (hc : workCells issued' = workCells issued ++ workCells units) :
    StepsTo p u (issued ++ (units ++ rest)) (issued' ++ rest) where
  hangs h := by
    simp [workHangs, List.any_append, show units.any _ = true from workHangs_of_joined_hangs hr hw h]
  endsAlike h := by
    have hdone : ∀ x ∈ issued ++ units, x.answers p = true := fun x hx =>
      (List.mem_append.mp hx).elim (hi x) (answers_of_joined_answers hr hw h x)
    rw [← List.append_assoc]
    exact .append hdone hi' (hc.trans (workCells_append issued units).symm) (.refl p rest)

end
end
end Sys2Proof.Machine
end

section
/-! PROOFS. One internal step of each command (41_dot R255, R256, 43_memcpy R312, R314, 40_conv R225): whatever
it is granted, what is left of the command ends it as before. -/

namespace Sys2Proof.Machine

/-! ## Grants -/

theorem one_le_granted (ask req vlmax : Nat) : 1 ≤ granted ask req vlmax :=
  le_max_left _ _

/-- Settles O35: a grant is the asked length brought between its two bounds. -/
theorem grantsAreExactlyTheLegalLengths : Obligations.GrantsAreExactlyTheLegalLengths := by
  intro req vlmax hreq hvl
  refine ⟨fun ask => ⟨one_le_granted ask req vlmax, ?_⟩, fun vl hlo hhi => ?_⟩
  · exact max_le (le_min hreq hvl) (min_le_right _ _)
  · rw [granted, min_eq_left hhi, max_eq_right hlo]

/-! ## A range in two parts -/

theorem range'_split (lo : Nat) {m n : Nat} (h : m ≤ n) :
    List.range' lo n = List.range' lo m ++ List.range' (lo + m) (n - m) := by
  rw [List.range'_append_1, Nat.add_sub_cancel' h]

/-- What is left of a loop at its index `e` is that index and what is left after it. -/
theorem range'_sub_eq_ite (e n : Nat) : List.range' e (n - e) =
    if e < n then e :: List.range' (e + 1) (n - (e + 1)) else [] := by
  split
  next h => rw [← List.range'_succ, show n - (e + 1) + 1 = n - e by omega]
  next h => rw [Nat.sub_eq_zero_of_le (by omega), List.range'_zero]

/-- The sum of a reduction is the sum of its parts (41_dot R252). -/
theorem reduce_split (s : State) (v : Variant) (pa pw : Nat) (off : Int) (lo : Nat) {m n : Nat}
    (h : m ≤ n) : reduce s v pa pw off lo n =
      reduce s v pa pw off lo m + reduce s v pa pw off (lo + m) (n - m) := by
  rw [reduce, range'_split lo h, List.map_append, List.sum_append]
  rfl

/-- A sum kept in the accumulator's width is the sum wrapped once (41_dot R252). -/
theorem accWrap_accWrap_add (v : Variant) (x y : Int) :
    accWrap v ((accWrap v x).toInt + y) = accWrap v (x + y) :=
  BitVec.eq_of_toInt_eq (((accumulates_accWrap v x).add y).trans (accumulates_accWrap v (x + y)).symm)

/-! ## DOT -/

/-- A step of the vector loop leaves the sum that the command will have (41_dot R256). -/
theorem dotAcc_dotTurn (v : Variant) (clr : Bool) (ask : Nat) (r : Running) (s : State) :
    dotAcc v clr (dotTurn v ask r s) s = dotAcc v clr r s := by
  unfold dotTurn
  split
  next h =>
    have hle := granted_le (ask := ask) (vlmax := v.vlmax s.params) (Nat.sub_pos_of_lt h)
    simp only [dotAcc, dotSum, reduce_split s v _ _ _ r.chan hle, Nat.sub_sub]
    rw [add_left_comm, accWrap_accWrap_add]
    congr 1
    ring
  · rfl

/-- A DOT stores no byte (41_dot R257). -/
theorem workCells_dotUnits (v : Variant) (g : Regs) (lanes : List Nat) :
    workCells (lanes.map (dotUnit v g)) = [] :=
  List.flatMap_eq_nil_iff.mpr (List.forall_mem_map.mpr fun _ _ => rfl)

theorem dotTurn_stepsTo (v : Variant) (ask : Nat) (r : Running) (s : State) :
    StepsTo s.params (dotTurnUnit v ask r s) (dotWork v r s) (dotWork v (dotTurn v ask r s) s) := by
  by_cases h : r.chan < s.regs.dotLen.toNat
  · have hle := granted_le (ask := ask) (vlmax := v.vlmax s.params) (Nat.sub_pos_of_lt h)
    rw [dotTurnUnit, if_pos h, dotTurn, if_pos h, dotWork, range'_split r.chan hle, List.map_append,
      Nat.sub_sub]
    exact .joined (issued := []) (issued' := []) rfl rfl _ (by simp) (by simp)
      (workCells_dotUnits ..).symm
  · rw [dotTurnUnit, if_neg h, dotTurn, if_neg h]
    exact .idle _

/-! ## MEMCPY -/

/-- A unit that only holds writes already issued makes no access. -/
theorem issued_answers (p : Params) (cells : List Host.Cell) :
    WorkUnit.answers p ⟨[], [], cells⟩ = true :=
  answers_iff_accesses.mpr (by simp)

theorem copyTurn_stepsTo (ask : Nat) (r : Running) (s : State) :
    StepsTo s.params (copyTurnUnit ask r s) (copyWork r s) (copyWork (copyTurn ask r s) s) := by
  by_cases h : r.chan < s.regs.cpyLen.toNat
  · have hle := granted_le (ask := ask) (vlmax := s.params.vlb.toNat) (Nat.sub_pos_of_lt h)
    rw [copyTurnUnit, if_pos h, copyTurn, if_pos h, copyWork, range'_split r.chan hle, List.map_append,
      Nat.sub_sub]
    exact .joined (issued := [_]) (issued' := [_]) rfl rfl _ (by simp [issued_answers])
      (by simp [issued_answers]) (by simp [workCells])
  · rw [copyTurnUnit, if_neg h, copyTurn, if_neg h]
    exact .idle _

/-! ## CONV: a vector step of a tap (40_conv R207) -/

section
variable {v : Variant} {bias : Bool} {s : State} {e t lo n : Nat}

theorem tapReadsFrom_split {g : Regs} (hin : tapInside g e t = true) (hlo : lo < g.inC.toNat)
    (hn : n ≤ g.inC.toNat - lo) :
    tapReadsFrom v g e t lo = tapReads v g e t lo n ++ tapReadsFrom v g e t (lo + n) := by
  rw [tapReadsFrom, if_pos ⟨hin, hlo⟩, tapReads, range'_split lo hn, List.flatMap_append, tapReadsFrom,
    Nat.sub_sub]
  congr 1
  split
  · rfl
  next hdone =>
    rw [Nat.sub_eq_zero_of_le (by simp [hin] at hdone; omega), List.range'_zero, List.flatMap_nil]

theorem accTap_split (acc : BitVec 64) (hin : tapInside s.regs e t = true)
    (hlo : lo < s.regs.inC.toNat) (hn : n ≤ s.regs.inC.toNat - lo) :
    accTap v s e (accWrap v (acc.toInt + tapSum v s e t lo n)) t (lo + n) = accTap v s e acc t lo := by
  have hsum : accTap v s e acc t lo = accWrap v ((accWrap v (acc.toInt + tapSum v s e t lo n)).toInt +
      tapSum v s e t (lo + n) (s.regs.inC.toNat - (lo + n))) := by
    rw [accTap, if_pos ⟨hin, hlo⟩, accWrap_accWrap_add, tapSum, reduce_split s v _ _ _ lo hn, ← add_assoc,
      Nat.sub_sub]
    rfl
  rw [hsum, accTap]
  split
  · rfl
  next hdone =>
    have hzero : s.regs.inC.toNat - (lo + n) = 0 :=
      Nat.sub_eq_zero_of_le (by simp [hin] at hdone; omega)
    rw [hzero, show tapSum v s e t (lo + n) 0 = 0 from rfl, add_zero,
      (accumulates_accWrap v _).accWrap_toInt]

/-- A vector step makes the first reads of the element and leaves its value (40_conv R225). -/
theorem convUnit_vectorStep (acc : BitVec 64) (ht : t < tapCount s.regs)
    (hin : tapInside s.regs e t = true) (hlo : lo < s.regs.inC.toNat)
    (hn : n ≤ s.regs.inC.toNat - lo) : convUnit v bias s e t lo acc =
      (convUnit v bias s e t (lo + n) (accWrap v (acc.toInt + tapSum v s e t lo n))).preceded
        (tapReads v s.regs e t lo n) := by
  have hreads : elemReads v bias s.regs e t lo =
      tapReads v s.regs e t lo n ++ elemReads v bias s.regs e t (lo + n) := by
    simp only [elemReads, if_pos ht, tapReadsFrom_split hin hlo hn, List.append_assoc]
  have hacc : accFrom v s e t (lo + n) (accWrap v (acc.toInt + tapSum v s e t lo n)) =
      accFrom v s e t lo acc := by
    simp only [accFrom, if_pos ht, accTap_split acc hin hlo hn]
  rw [WorkUnit.preceded, convUnit, convUnit, hreads, hacc]

/-! ## CONV: on to the next tap, and to the next output element (40_conv R203, R206) -/

theorem elemReads_fresh (v : Variant) (bias : Bool) (g : Regs) (e t : Nat) :
    elemReads v bias g e t 0 = (List.range' t (tapCount g - t)).flatMap
      (fun u => tapReadsFrom v g e u 0) ++ stageReads v bias g e := by
  rw [elemReads, range'_sub_eq_ite t]
  split <;> rfl

theorem accFrom_fresh (v : Variant) (s : State) (e t : Nat) (acc : BitVec 64) :
    accFrom v s e t 0 acc =
      (List.range' t (tapCount s.regs - t)).foldl (fun a u => accTap v s e a u 0) acc := by
  rw [accFrom, range'_sub_eq_ite t]
  split <;> rfl

/-- A padded tap, and one whose channels are done, adds nothing and reads nothing (40_conv R206). -/
theorem convUnit_nextTap (acc : BitVec 64) (ht : t < tapCount s.regs)
    (hout : ¬ (tapInside s.regs e t = true ∧ lo < s.regs.inC.toNat)) :
    convUnit v bias s e t lo acc = convUnit v bias s e (t + 1) 0 acc := by
  have hreads : elemReads v bias s.regs e t lo = elemReads v bias s.regs e (t + 1) 0 := by
    rw [elemReads_fresh, elemReads, if_pos ht, tapReadsFrom, if_neg hout, List.nil_append]
  have hacc : accFrom v s e t lo acc = accFrom v s e (t + 1) 0 acc := by
    rw [accFrom_fresh, accFrom, if_pos ht, accTap, if_neg hout]
  rw [convUnit, convUnit, hreads, hacc]

/-- With its taps done an element has its output stage left. -/
theorem convUnit_tapsDone (acc : BitVec 64) (ht : ¬ t < tapCount s.regs) :
    convUnit v bias s e t lo acc = ⟨stageReads v bias s.regs e, [⟨outElemAddr v s.regs e, v.es⟩],
      convCells v bias s e acc⟩ := by
  rw [convUnit, elemReads, if_neg ht, accFrom, if_neg ht, List.nil_append]

end

section
variable (v : Variant) (bias : Bool) (r : Running) (s : State)

theorem convWork_of_lt (he : r.elem < convCount s.regs) : convWork v bias r s =
    ⟨[], [], r.writes⟩ :: convUnit v bias s r.elem r.tap r.chan r.acc ::
      (List.range' (r.elem + 1) (convCount s.regs - (r.elem + 1))).map
        (fun e => convUnit v bias s e 0 0 0#64) := by
  rw [convWork, if_pos he]

/-- At the start of an output element only whole elements are left (40_conv R203, R205). -/
theorem convWork_fresh (ht : r.tap = 0) (hc : r.chan = 0) (ha : r.acc = 0#64) : convWork v bias r s =
    ⟨[], [], r.writes⟩ :: (List.range' r.elem (convCount s.regs - r.elem)).map
      (fun e => convUnit v bias s e 0 0 0#64) := by
  rw [convWork, ht, hc, ha, range'_sub_eq_ite r.elem]
  split <;> rfl

theorem convTurn_stepsTo (ask : Nat) : StepsTo s.params (convTurnUnit v bias ask r s)
    (convWork v bias r s) (convWork v bias (convTurn v bias ask r s) s) := by
  by_cases he : r.elem < convCount s.regs
  · rw [convTurnUnit, if_pos he, convTurn, if_pos he, convWork_of_lt v bias r s he]
    by_cases ht : r.tap < tapCount s.regs
    · rw [if_pos ht, if_pos ht]
      by_cases hin : tapInside s.regs r.elem r.tap = true ∧ r.chan < s.regs.inC.toNat
      · have hle := granted_le (ask := ask) (vlmax := v.vlmax s.params) (Nat.sub_pos_of_lt hin.2)
        rw [if_pos hin, if_pos hin, convUnit_vectorStep r.acc ht hin.1 hin.2 hle,
          convWork_of_lt]
        · exact .reads _ _ _ _ (issued_answers _ _)
        · exact he
      · rw [if_neg hin, if_neg hin, convUnit_nextTap r.acc ht hin, convWork_of_lt]
        · exact .idle _
        · exact he
    · rw [if_neg ht, if_neg ht, convUnit_tapsDone r.acc ht, convWork_fresh v bias _ s rfl rfl rfl]
      exact .joined (issued := [_]) (issued' := [_]) (units := [_]) (by simp) (by simp) _
        (by simp [issued_answers]) (by simp [issued_answers]) (by simp [workCells])
  · rw [convTurnUnit, if_neg he, convTurn, if_neg he]
    exact .idle _

end

/-! ## Every command -/

section
variable (ask : Nat) (r : Running) (s : State)

/-- The accesses of an internal step are the command's own, and when they answer what is left ends it alike. -/
theorem turnUnit_stepsTo :
    StepsTo s.params (turnUnit ask r s) (workLeft r s) (workLeft (turnRunning ask r s) s) := by
  unfold workLeft turnUnit
  rw [turnRunning_cmd]
  unfold turnRunning
  cases r.cmd with
  | convS8 | convS16 => exact convTurn_stepsTo ..
  | dotS8 | dotS16 => exact dotTurn_stepsTo ..
  | rqS8 | rqS16 => exact .idle _
  | memcpy => exact copyTurn_stepsTo ..

/-- An internal step leaves the registers that the command will leave. -/
theorem resultRegs_turnRunning : resultRegs (turnRunning ask r s) s = resultRegs r s := by
  unfold resultRegs
  rw [turnRunning_cmd]
  unfold turnRunning
  cases r.cmd with
  | convS8 | convS16 | rqS8 | rqS16 | memcpy => rfl
  | dotS8 | dotS16 => simp only [dotResults, dotAcc_dotTurn]

/-- An internal step neither stalls the command nor marks a race. -/
theorem turnRunning_marks : (turnRunning ask r s).stalled = r.stalled ∧
    (turnRunning ask r s).raced = r.raced := by
  unfold turnRunning
  cases r.cmd with
  | convS8 | convS16 => simp only [convTurn]; split_ifs <;> exact ⟨rfl, rfl⟩
  | dotS8 | dotS16 => simp only [dotTurn]; split_ifs <;> exact ⟨rfl, rfl⟩
  | rqS8 | rqS16 => exact ⟨rfl, rfl⟩
  | memcpy => simp only [copyTurn]; split_ifs <;> exact ⟨rfl, rfl⟩

end

/-! ## The end of the command (41_dot R256, 43_memcpy R314, 40_conv R225) -/

/-- The end event does not look at the hidden state but for its two marks, when no access hangs. -/
theorem endWith_running {r r' : Running} (x : Exposed) (work : List WorkUnit) (results : Regs)
    (s : State) (hs : r.stalled = false) (hs' : r'.stalled = false) (hr : r'.raced = r.raced)
    (hx : x.hangs = false) : endWith r' x work results { s with running := some r' } =
      endWith r x work results s := by
  simp only [endWith, hs, hs', hr, hx, Bool.false_and, Bool.false_eq_true, if_false]
  rfl

theorem workLeft_running (r : Running) (o : Option Running) (s : State) :
    workLeft r { s with running := o } = workLeft r s := by
  unfold workLeft
  cases r.cmd <;> rfl

theorem resultRegs_running (r : Running) (o : Option Running) (s : State) :
    resultRegs r { s with running := o } = resultRegs r s := by
  unfold resultRegs
  cases r.cmd <;> rfl

theorem busErrorEnd_endsAlike {work work' : List WorkUnit} {s : State}
    (h : EndsAlike s.params work work') (candidates : List Nat) :
    busErrorEnd candidates work' s = busErrorEnd candidates work s := by
  rw [busErrorEnd, h.aborted, busErrorEnd]

theorem endWith_endsAlike {work work' : List WorkUnit} {s : State}
    (h : EndsAlike s.params work work') (r : Running) (x : Exposed) (results : Regs) :
    endWith r x work' results s = endWith r x work results s := by
  rw [endWith, busErrorEnd_endsAlike h, h.cells, endWith]

/-- A step whose accesses answer does not change how the command ends (41_dot R256). -/
theorem endCommand_turnRunning {ask : Nat} {r : Running} {s : State} (hst : r.stalled = false)
    (hh : workHangs s.params (workLeft r s) = false)
    (hu : (turnUnit ask r s).answers s.params = true) :
    endCommand (turnRunning ask r s) { s with running := some (turnRunning ask r s) } =
      endCommand r s := by
  obtain ⟨hstall, hraced⟩ := turnRunning_marks ask r s
  have hend := (turnUnit_stepsTo ask r s).endsAlike hu
  have hmet : exposedLeft (turnRunning ask r s) { s with running := some (turnRunning ask r s) } =
      exposedLeft r s := by
    rw [exposedLeft, exposedLeft, workLeft_running, turnRunning_cmd]
    exact hend.met _
  have hx : (exposedLeft r s).hangs = false := exposed_hangs_false _ _ _ hh
  rw [endCommand, hmet, workLeft_running, resultRegs_running, resultRegs_turnRunning,
    endWith_running _ _ _ s hst (hstall.trans hst) hraced hx,
    endWith_endsAlike hend, endCommand]

/-- An end event that meets no access that hangs leaves no command running. -/
theorem endWith_running_none {r : Running} {x : Exposed} {work : List WorkUnit} {results : Regs}
    {s t : State} (hst : r.stalled = false) (hx : x.hangs = false)
    (h : endWith r x work results s = .next t) : t.running = none := by
  obtain ⟨hs, -⟩ | ⟨-, hh, -⟩ | ⟨-, -, h'⟩ | ⟨-, -, -, -, h'⟩ | ⟨-, -, -, h'⟩ :=
    endWith_cases r x work results s
  · simp [hst] at hs
  · simp [hx] at hh
  · simp [h'] at h
  · cases h'.symm.trans h; rfl
  · cases h'.symm.trans h; rfl

/-- Settles O36: a step waits for an access that never ends, or its accesses answer and what is left ends the
command alike, or it ends the command itself. -/
theorem internalStepsNeverChangeTheOutcome : Obligations.InternalStepsNeverChangeTheOutcome := by
  intro s t r r' ask hr hh h hr'
  obtain ⟨-, h'⟩ | ⟨hst, hu, h'⟩ | ⟨hst, -, h'⟩ := engineTurn_cases ask r s <;> rw [h'] at h
  · cases h
    cases hr.symm.trans hr'
    rfl
  · cases h
    cases hr'
    exact endCommand_turnRunning hst hh hu
  · have hunit : (turnUnit ask r s).hangs s.params = false := by
      rw [← Bool.not_eq_true]
      exact fun hu => by simp [(turnUnit_stepsTo ask r s).hangs hu] at hh
    have hx : (exposed s.params 1 [turnUnit ask r s]).hangs = false :=
      exposed_hangs_false _ _ _ (by simpa [workHangs] using hunit)
    simp [endWith_running_none hst hx h] at hr'

end Sys2Proof.Machine
end

section
/-! PROOFS. DOT from its START to its end (41_dot R255 to R259): its check, its sum, and the length of its loop;
and the checks of RQ and MEMCPY (42_requant R287, 43_memcpy R316). -/

namespace Sys2Proof.Machine

open Claim

/-! ## The checks of two regions (20_memory R108) -/

/-- ADDR_RANGE over two regions names the first, or the second when the first is inside the data space. -/
theorem addrRangeError_pair (a b : Word) (m n : Nat) :
    let check := addrRangeError [⟨a.toNat, m⟩, ⟨b.toNat, n⟩]
    (2 ^ 32 < a.toNat + m → check = some (.addrRange, a)) ∧
    (a.toNat + m ≤ 2 ^ 32 → 2 ^ 32 < b.toNat + n → check = some (.addrRange, b)) ∧
    (a.toNat + m ≤ 2 ^ 32 → b.toNat + n ≤ 2 ^ 32 → check = none) := by
  intro check
  have hname : ∀ w : Word, BitVec.ofNat 32 w.toNat = w := by simp
  refine ⟨fun ha => ?_, fun ha hb => ?_, fun ha hb => addrRangeError_eq_none.mpr (by simpa using ⟨ha, hb⟩)⟩
  · exact (addrRangeError_append (pre := []) (r := ⟨a.toNat, m⟩) (by simp) ha).trans (by rw [hname])
  · exact (addrRangeError_append (pre := [⟨a.toNat, m⟩]) (r := ⟨b.toNat, n⟩) (post := [])
      (by simpa using ha) hb).trans (by rw [hname])

/-- The check of RQ is CLAMP_RANGE (42_requant R287). -/
theorem rqCheck_cases (v : Variant) (s : State) :
    (¬ ClampLegal v.loType v.hiType s.regs → rqCheck v s = some (.clampRange, 0#32)) ∧
    (ClampLegal v.loType v.hiType s.regs → rqCheck v s = none) :=
  ⟨fun h => if_neg h, fun h => if_pos h⟩

/-- Settles O28: DOT and MEMCPY check their two regions, RQ its clamp range. -/
theorem dotRqCopyChecks : Obligations.DotRqCopyChecks := by
  intro s
  have hdot := fun v : Variant =>
    addrRangeError_pair s.regs.dotA s.regs.dotB (v.es * s.regs.dotLen.toNat) s.regs.dotLen.toNat
  have hrq := fun v : Variant => rqCheck_cases v s
  simp only [List.forall_mem_cons, List.not_mem_nil, false_imp_iff, implies_true, and_true]
  exact ⟨⟨hdot .s8, hdot .s8, hdot .s16, hdot .s16⟩,
    ⟨⟨(hrq .s8).1, (hrq .s8).2, rfl⟩, ⟨(hrq .s16).1, (hrq .s16).2, rfl⟩⟩,
    addrRangeError_pair s.regs.cpySrc s.regs.cpyDst s.regs.cpyLen.toNat s.regs.cpyLen.toNat⟩

/-! ## The vector loop ends (41_dot R255) -/

/-- A step of the vector loop stays inside the vector, and advances unless it is at its end. -/
theorem dotTurn_chan {v : Variant} {ask n : Nat} {r : Running} {s : State}
    (hle : r.chan ≤ s.regs.dotLen.toNat) (hn : s.regs.dotLen.toNat ≤ r.chan + (n + 1)) :
    (dotTurn v ask r s).chan ≤ s.regs.dotLen.toNat ∧
      s.regs.dotLen.toNat ≤ (dotTurn v ask r s).chan + n := by
  unfold dotTurn
  split
  next h =>
    have hpos := one_le_granted ask (s.regs.dotLen.toNat - r.chan) (v.vlmax s.params)
    have hmax := granted_le (ask := ask) (vlmax := v.vlmax s.params) (Nat.sub_pos_of_lt h)
    simp only
    omega
  next h => omega

/-- As many steps as elements are left bring the loop to the end of the vector. -/
theorem foldl_dotTurn_chan {v : Variant} {s : State} (asks : List Nat) {r : Running}
    (hle : r.chan ≤ s.regs.dotLen.toNat) (hn : s.regs.dotLen.toNat ≤ r.chan + asks.length) :
    (asks.foldl (fun r ask => dotTurn v ask r s) r).chan = s.regs.dotLen.toNat := by
  induction asks generalizing r with
  | nil => exact le_antisymm hle hn
  | cons ask asks ih =>
    obtain ⟨hle', hn'⟩ := dotTurn_chan (v := v) (ask := ask) hle hn
    exact ih hle' hn'

/-- Settles O38: every step advances by at least one element (41_dot R255). -/
theorem reductionLoopEndsAfterAtMostLenSteps : Obligations.ReductionLoopEndsAfterAtMostLenSteps := by
  intro v i s asks h
  exact foldl_dotTurn_chan asks (Nat.zero_le _) (by simpa [Running.start] using h)

/-! ## The results (41_dot R257, R258) -/

/-- The sum a DOT leaves, from its START (41_dot R252). -/
theorem dotAcc_start (v : Variant) (clr : Bool) (i : Instr) (s : State) :
    dotAcc v clr (Running.start i) s = accWrap v (dotBase v clr s.regs + dotSumExact v s) := by
  have hsum : dotSum v s 0 s.regs.dotLen.toNat = dotSumExact v s := reduce_eq_sum ..
  simp [dotAcc, Running.start, hsum]

/-- A DOT from its START completes with its results, and stores nothing. -/
theorem exec_dot_completes {i : Instr} {v : Variant} {clr : Bool} {s : State}
    (hcheck : startCheck i s = none) (hundef : startUndefined i s = none) (ha : Answers i s)
    (hi : interleaved s = false) (hwork : workLeft (Running.start i) s = dotWork v (Running.start i) s)
    (hres : resultRegs (Running.start i) s = dotResults v clr (Running.start i) s) :
    exec i s = .next { s with
      regs := setResult (accWrap v (dotBase v clr s.regs + dotSumExact v s))
        (setAcc (accWrap v (dotBase v clr s.regs + dotSumExact v s)) s.regs)
      status := doneStatus s
      running := none } := by
  rw [exec_completes hcheck hundef ha hi, hwork, hres, dotWork, workCells_dotUnits, staleAfter_nil,
    dotResults, dotAcc_start]
  rfl

/-- The two halves of a sign-extended word. -/
theorem extractLsb'_signExtend (w : Word) : (w.signExtend 64).extractLsb' 0 32 = w ∧
    (w.signExtend 64).extractLsb' 32 32 = if w.msb then 0xFFFFFFFF#32 else 0x00000000#32 := by
  rw [BitVec.signExtend_eq_append_of_le (by decide), BitVec.cast_eq]
  refine ⟨BitVec.extractLsb'_append_eq_right, BitVec.extractLsb'_append_eq_left.trans ?_⟩
  cases w.msb <;> rfl

/-- The sum of a DOT_S8 fills the low words of ACC and RESULT, its sign the high words. -/
theorem setResult_setAcc_s8 (x : Int) (g : Regs) :
    let lo : Word := BitVec.ofInt 32 x
    let hi : Word := if lo.msb then 0xFFFFFFFF#32 else 0x00000000#32
    setResult (accWrap .s8 x) (setAcc (accWrap .s8 x) g) =
      { g with accLo := lo, accHi := hi, resultLo := lo, resultHi := hi } := by
  intro lo hi
  obtain ⟨hlo, hhi⟩ := extractLsb'_signExtend lo
  simp only [setResult, setAcc, accWrap, lo, hi, hlo, hhi]

/-- Settles O19: the command completes with the wrapped sum, sign-extended. -/
theorem dotS8Result : Obligations.DotS8Result := by
  intro clr s hspace hord ha hi lo hi'
  have hexec := exec_dot_completes (i := .dotS8 clr) (v := .s8) (clr := clr)
    (addrRangeError_eq_none.mpr hspace) (ordinaryFault_eq_none.mpr hord) ha hi rfl rfl
  rw [hexec, setResult_setAcc_s8]
  rfl

/-- Settles O20: the command completes, and the two halves of the sum are the words of ACC and RESULT. -/
theorem dotS16Result : Obligations.DotS16Result := by
  intro clr s hspace hord ha hi a
  exact exec_dot_completes (i := .dotS16 clr) (v := .s16) (clr := clr)
    (addrRangeError_eq_none.mpr hspace) (ordinaryFault_eq_none.mpr hord) ha hi rfl rfl

end Sys2Proof.Machine
end

section
/-! PROOFS. The properties of RQ (42_requant R281, R282), one reading of RQ per direction of its shift; and
the datapath against OUTSTAGE (R284). -/

namespace Sys2Proof.Machine

/-! ## RQ as a right shift and as a left shift (42_requant R281) -/

/-- With T = 31 - s at least 1, RQ is a rounding right shift by T. -/
theorem rq_of_right {s : Int} {t : Nat} (ht : 1 ≤ t) (hs : 31 - s = t) (x m : Int) :
    rq x m s = (x * m + 2 ^ (t - 1)) / 2 ^ t := by
  rw [rq, if_pos (by omega), hs, Int.toNat_natCast]

/-- With T at most 0, RQ is an exact left shift. -/
theorem rq_of_left (x m : Int) (k : Nat) : rq x m (31 + k) = x * m * 2 ^ k := by
  rw [rq, if_neg (by omega), add_sub_cancel_left, Int.toNat_natCast]

/-! ## The properties (42_requant R282) -/

/-- The rounding addend alone is less than the divisor, so a zero product gives 0 in either direction. -/
theorem rq_of_product_eq_zero {x m : Int} (h : x * m = 0) (s : Int) : rq x m s = 0 := by
  obtain ⟨t, ht⟩ | ⟨k, hk⟩ : (∃ t : Nat, 31 - s = (t + 1 : Nat)) ∨ ∃ k : Nat, s = 31 + k := by
    obtain hs | hs := le_or_gt 31 s
    · exact .inr ⟨(s - 31).toNat, by omega⟩
    · exact .inl ⟨(30 - s).toNat, by omega⟩
  · rw [rq_of_right t.succ_pos ht, h, zero_add, Nat.succ_sub_one]
    exact Int.ediv_eq_zero_of_lt (by positivity) (pow_lt_pow_right₀ (by norm_num) t.lt_succ_self)
  · rw [hk, rq_of_left, h, zero_mul]

/-- A multiplier of 2^30 at s = 1 is an exact division by 2^30. -/
theorem rq_identity (x : Int) : rq x (2 ^ 30) 1 = x := by
  rw [rq_of_right (t := 30) (by decide) (by decide)]
  omega

/-- A multiplier of 2^30 at s = 0 halves, ties toward plus infinity. -/
theorem rq_halving (x : Int) : rq x (2 ^ 30) 0 = (x + 1) / 2 := by
  rw [rq_of_right (t := 31) (by decide) (by decide)]
  omega

/-- A right shift by 96 or more leaves nothing of the product of a 64-bit and a 32-bit value. -/
theorem rq_large_right_shift (x : BitVec 64) (m : Word) {s : Int} (hs : s ≤ -65) :
    rq x.toInt m.toInt s = 0 := by
  obtain ⟨hlo, hhi⟩ := abs_product_le x m.le_toInt m.toInt_lt
  rw [rq_of_right (t := (31 - s).toNat) (by omega) (by omega)]
  exact rounded_shift_eq_zero (by omega) hlo hhi

/-- Settles O42: the properties one by one, and the two ties by evaluation. -/
theorem requantizationProperties : Obligations.RequantizationProperties :=
  ⟨rq_identity, rq_halving, by decide, by decide,
    fun m => rq_of_product_eq_zero (zero_mul m), fun x => rq_of_product_eq_zero (mul_zero x),
    fun x m _ hs => rq_large_right_shift x m hs, rq_of_left⟩

/-! ## The datapath (42_requant R283, R284) -/

/-- Settles O43: words are in the range in which the datapath agrees with RQ. -/
theorem datapathMeetsOutstage : Obligations.DatapathMeetsOutstage := by
  intro x m s off lo hi hlo hle hhi
  exact outstage_eq_clamp_rq x ⟨m.le_toInt, m.toInt_lt⟩ ⟨off.le_toInt, off.toInt_lt⟩ hlo hle hhi

end Sys2Proof.Machine
end

section
/-! PROOFS. RQ_S8 and RQ_S16 from START to end (42_requant R285 to R287): they touch no memory, and their
output, inside the clamp range, fills RESULT. -/

namespace Sys2Proof.Machine

open Claim

/-! ## The two commands as one -/

/-- RQ_S8 or RQ_S16 (42_requant R285, R286). -/
def rqInstr : Variant → Instr
  | .s8 => .rqS8
  | .s16 => .rqS16

section
variable (v : Variant) (s : State)

@[simp] theorem startCheck_rqInstr : startCheck (rqInstr v) s = rqCheck v s := by
  cases v <;> rfl

@[simp] theorem startUndefined_rqInstr : startUndefined (rqInstr v) s = none := by
  cases v <;> rfl

@[simp] theorem workLeft_rqInstr : workLeft (Running.start (rqInstr v)) s = [] := by
  cases v <;> rfl

@[simp] theorem resultRegs_rqInstr :
    resultRegs (Running.start (rqInstr v)) s = rqResults v s.regs := by
  cases v <;> rfl

end

/-! ## The output (42_requant R284) -/

/-- Either accumulator fits 64 bits. -/
theorem rqOperand_eq_toInt (v : Variant) (g : Regs) : ∃ x : BitVec 64, rqOperand v g = x.toInt := by
  cases v with
  | s8 => exact ⟨g.accLo.signExtend 64, (BitVec.toInt_signExtend_of_le (by decide)).symm⟩
  | s16 => exact ⟨accPair g, rfl⟩

/-- The clamp bounds are inside int16 for either variant (10_state R44). -/
theorem clampLegal_int16 {v : Variant} {g : Regs} (h : ClampLegal v.loType v.hiType g) :
    ClampLegal (-32768) 32767 g := by
  obtain ⟨hlo, hle, hhi⟩ := h
  cases v with
  | s8 => exact ⟨le_trans (by decide) hlo, hle, hhi.trans (by decide)⟩
  | s16 => exact ⟨hlo, hle, hhi⟩

/-- The output is the clamp of RQ as R281 writes it. -/
theorem rqOutput_eq_clamp_rq {v : Variant} {g : Regs} (h : ClampLegal v.loType v.hiType g) :
    rqOutput v g = clamp (rq (rqOperand v g) g.reqMult.toInt g.reqShift.toInt + v.ooff g)
      g.actMin.toInt g.actMax.toInt := by
  obtain ⟨hlo, hle, hhi⟩ := clampLegal_int16 h
  obtain ⟨x, hx⟩ := rqOperand_eq_toInt v g
  rw [rqOutput, hx]
  exact outstage_eq_clamp_rq x ⟨g.reqMult.le_toInt, g.reqMult.toInt_lt⟩ (ooff_range v g) hlo hle hhi

/-! ## The result -/

/-- A value of 32 bits fills the low word of RESULT, and its sign the high word. -/
theorem setResult_ofInt {o : Int} (hlo : -(2 ^ 31) ≤ o) (hhi : o < 2 ^ 31) (g : Regs) :
    setResult (BitVec.ofInt 64 o) g = { g with
      resultLo := BitVec.ofInt 32 o
      resultHi := if 0 ≤ o then 0x00000000#32 else 0xFFFFFFFF#32 } := by
  have htoInt : (BitVec.ofInt 32 o).toInt = o := BitVec.toInt_ofInt_eq_self (by decide) hlo hhi
  have hext : BitVec.ofInt 64 o = (BitVec.ofInt 32 o).signExtend 64 := by
    rw [BitVec.signExtend, htoInt]
  have hmsb : (BitVec.ofInt 32 o).msb = decide (o < 0) := by rw [BitVec.msb_eq_toInt, htoInt]
  obtain ⟨hlow, hhigh⟩ := extractLsb'_signExtend (BitVec.ofInt 32 o)
  rw [setResult, hext, hlow, hhigh, hmsb]
  simp only [decide_eq_true_eq, ← not_le, ite_not]

/-- An RQ from its START completes with its output in RESULT, and stores nothing. -/
theorem exec_rqInstr {v : Variant} {s : State} (hclamp : ClampLegal v.loType v.hiType s.regs)
    (hi : interleaved s = false) :
    let o := clamp (rq (rqOperand v s.regs) s.regs.reqMult.toInt s.regs.reqShift.toInt +
      v.ooff s.regs) s.regs.actMin.toInt s.regs.actMax.toInt
    exec (rqInstr v) s = .next { s with
      regs := { s.regs with
        resultLo := BitVec.ofInt 32 o
        resultHi := if 0 ≤ o then 0x00000000#32 else 0xFFFFFFFF#32 }
      status := doneStatus s
      running := none } := by
  intro o
  obtain ⟨hlo, hle, hhi⟩ := clampLegal_int16 hclamp
  have holo : s.regs.actMin.toInt ≤ o := le_clamp hle
  have hohi : o ≤ s.regs.actMax.toInt := clamp_le hle
  have hcheck : startCheck (rqInstr v) s = none := by
    rw [startCheck_rqInstr, (rqCheck_cases v s).2 hclamp]
  rw [exec_completes_of_answers hcheck (startUndefined_rqInstr v s) hi (by simp), workLeft_rqInstr,
    resultRegs_rqInstr, rqResults, rqOutput_eq_clamp_rq hclamp,
    setResult_ofInt (o := o) (by omega) (by omega)]
  simp [workCells]

/-- Settles O21: the operand is ACC_LO, the offset OUTPUT_OFFSET. -/
theorem rqS8Result : Obligations.RqS8Result :=
  fun _ hclamp hi => exec_rqInstr (v := .s8) hclamp hi

/-- Settles O22: the operand is ACC, the offset 0. -/
theorem rqS16Result : Obligations.RqS16Result := by
  intro s hclamp hi o
  have hexec := exec_rqInstr (v := .s16) hclamp hi
  simp only [Variant.ooff, add_zero] at hexec
  exact hexec

end Sys2Proof.Machine
end

section
/-! PROOFS. MEMCPY from its START to its completion (43_memcpy R311, R313, R314): its UNDEFINED cases, its
results, and the bytes it copies. -/

namespace Sys2Proof.Machine

open Claim

/-- The whole work of a copy is its bytes, ascending (43_memcpy R312). -/
theorem copyWork_start (s : State) : copyWork (Running.start .memcpy) s =
    ⟨[], [], []⟩ :: (List.range s.regs.cpyLen.toNat).map (copyUnit s) := by
  rw [List.range_eq_range']
  rfl

theorem workCells_copyWork_start (s : State) : workCells (copyWork (Running.start .memcpy) s) =
    (List.range s.regs.cpyLen.toNat).map fun j =>
      (s.regs.cpyDst.toNat + j, engineByte s (s.regs.cpySrc.toNat + j)) := by
  rw [copyWork_start, workCells, List.flatMap_cons, List.nil_append, List.flatMap_map,
    List.map_eq_flatMap]
  rfl

/-- A copy stores each byte once. -/
theorem workCells_copyWork_nodup (s : State) :
    ((workCells (copyWork (Running.start .memcpy) s)).map (·.1)).Nodup := by
  rw [workCells_copyWork_start, List.map_map]
  exact List.nodup_range.map (add_right_injective s.regs.cpyDst.toNat)

/-- Every source byte is at its destination when the work is stored. -/
theorem read_copyWork {s : State} {j : Nat} (hwf : s.mem.wf = true) (hj : j < s.regs.cpyLen.toNat) :
    (s.mem.writeCells (workCells (copyWork (Running.start .memcpy) s))).read
      (s.regs.cpyDst.toNat + j) = engineByte s (s.regs.cpySrc.toNat + j) := by
  refine Memory.read_writeCells_mem _ _ _ _ hwf ?_ (workCells_copyWork_nodup s)
  rw [workCells_copyWork_start]
  exact List.mem_map.mpr ⟨j, List.mem_range.mpr hj, rfl⟩

/-- The element of one byte is the byte at its address (00_scope R15). -/
theorem ofNat_memRead_one (s : State) (a : Nat) : BitVec.ofNat 8 (memRead s a 1) = engineByte s a := by
  simp [memRead]

/-- A copy whose regions are ordinary memory and do not overlap is no UNDEFINED case (43_memcpy R313). -/
theorem copyUndefined_eq_none {s : State} (hord : Ordinary .memcpy s) (halias : NotAliased .memcpy s) :
    copyUndefined s = none := by
  have hover : (copySource s.regs).overlaps (copyDest s.regs) = false := by
    rw [Region.overlaps_comm]
    exact halias _ (List.mem_singleton.mpr rfl) _ (List.mem_singleton.mpr rfl)
  rw [copyUndefined, hover]
  exact ordinaryFault_eq_none.mpr hord

/-- The high word of the pair is 0 (43_memcpy R311). -/
theorem copyResults_eq (g : Regs) :
    copyResults g = { g with resultLo := g.cpyDst, resultHi := 0#32 } := by
  rw [copyResults, setResult, BitVec.extractLsb'_append_eq_right, BitVec.extractLsb'_append_eq_left]

/-- Settles O23: the copy passes its checks, is answered, and stores each source byte at its place in DST. -/
theorem memcpyResult : Obligations.MemcpyResult := by
  intro s hspace hord ha halias hi hwf
  have hexec := exec_completes (i := .memcpy) (addrRangeError_eq_none.mpr hspace)
    (copyUndefined_eq_none hord halias) ha hi
  refine ⟨_, _, hexec.trans (by rw [resultRegs, copyResults_eq]; rfl),
    fun hcoh => staleAfter_of_coherent hcoh _, fun j hj => ?_, fun a hw => read_exec_outside hexec hw⟩
  rw [ofNat_memRead_one]
  exact read_copyWork hwf hj

end Sys2Proof.Machine
end

section
/-! PROOFS. The bus error of a command (60_exceptions R403, R412): the address it records belongs to an access the
engine has issued; and which accesses a copy has issued by then (43_memcpy R312). -/

namespace Sys2Proof.Machine

/-! ## The access an error belongs to -/

/-- What stands in a list at a position of its initial part `pre` is in that part. -/
theorem mem_of_prefix_of_lt {α : Type} {pre l : List α} {k : Nat} {x : α} (h : pre <+: l)
    (hk : k < pre.length) (hx : l[k]? = some x) : x ∈ pre := by
  rw [List.prefix_iff_getElem?.mp h k hk] at hx
  obtain rfl := Option.some.inj hx
  exact List.getElem_mem hk

/-- The position in a list of an element of its initial part that comes after `done`. -/
theorem exists_getElem?_of_append_prefix {α : Type} {done step l : List α} {u : α}
    (h : done ++ step <+: l) (hu : u ∈ step) :
    ∃ m < step.length, l[done.length + m]? = some u := by
  obtain ⟨m, hm, rfl⟩ := List.mem_iff_getElem.mp hu
  refine ⟨m, hm, ?_⟩
  rw [List.prefix_iff_getElem?.mp h (done.length + m) (by simpa using hm),
    List.getElem_append_right (Nat.le_add_right _ _)]
  simp

/-- An address that a bus error may record belongs to an access that has been issued: every unit a step or
more before its own has answered, and for a write the reads of every unit up to its own have returned
(60_exceptions R403, R412, log 12). -/
theorem exposed_errAddrs_issued {p : Params} {w : Nat} {work : List WorkUnit} {a : Nat}
    (h : a ∈ (exposed p w work).errAddrs) :
    ∃ (j : Nat) (u : WorkUnit), work[j]? = some u ∧
      (∀ k x, k + max 1 w ≤ j → work[k]? = some x → x.answers p = true) ∧
      (a ∈ u.readErrAddrs p ∨
        a ∈ u.writeErrAddrs p ∧ ∀ k x, k ≤ j → work[k]? = some x → x.readsReturn p = true) := by
  set done := work.takeWhile (WorkUnit.answers p)
  set window := (work.dropWhile (WorkUnit.answers p)).take (max 1 w)
  set reached := window.takeWhile (WorkUnit.readsReturn p)
  have hanswers : ∀ x ∈ done, x.answers p = true := fun x => List.mem_takeWhile_imp
  have hwindow : done ++ window <+: work := by
    conv_rhs => rw [← List.takeWhile_append_dropWhile (p := WorkUnit.answers p) (l := work)]
    exact (List.prefix_append_right_inj done).mpr (List.take_prefix _ _)
  have hreached : done ++ reached <+: work :=
    ((List.prefix_append_right_inj done).mpr (List.takeWhile_prefix _)).trans hwindow
  have hlen : window.length ≤ max 1 w := List.length_take_le _ _
  have hbefore : ∀ m < window.length, ∀ k x, k + max 1 w ≤ done.length + m → work[k]? = some x →
      x.answers p = true := fun m hm k x hk hx =>
    hanswers x (mem_of_prefix_of_lt (List.takeWhile_prefix _) (by omega) hx)
  obtain h | h := List.mem_append.mp h <;> obtain ⟨u, hu, ha⟩ := List.mem_flatMap.mp h
  · obtain ⟨m, hm, hj⟩ := exists_getElem?_of_append_prefix hwindow hu
    exact ⟨_, u, hj, hbefore m hm, .inl ha⟩
  · obtain ⟨m, hm, hj⟩ := exists_getElem?_of_append_prefix hreached hu
    refine ⟨_, u, hj, hbefore m (hm.trans_le (List.takeWhile_prefix _).length_le),
      .inr ⟨ha, fun k x hk hx => ?_⟩⟩
    have hmem : x ∈ done ++ reached := mem_of_prefix_of_lt hreached (by simp; omega) hx
    exact (List.mem_append.mp hmem).elim (fun hd => readsReturn_of_answers (hanswers x hd))
      List.mem_takeWhile_imp

/-! ## A command that ends with a bus error -/

/-- ERR_ADDR is one of the addresses it may record (60_exceptions R403). -/
theorem pickErrAddr_mem (k : Nat) {candidates : List Nat} (h : candidates ≠ []) :
    pickErrAddr k candidates ∈ candidates := by
  obtain ⟨a, ha⟩ := List.exists_mem_of_ne_nil _ h
  have hpos : 0 < candidates.eraseDups.length := List.length_pos_of_mem (List.mem_eraseDups.mpr ha)
  rw [← List.mem_eraseDups, pickErrAddr]
  split
  next b hb => simp [hb]
  next =>
    rw [List.getD_eq_getElem _ _ (Nat.mod_lt _ hpos)]
    exact List.getElem_mem _

/-- A command that passes its checks, and of whose work some access errs and none hangs, takes the bus error
with an address it has met (60_exceptions R412). -/
theorem exec_busError {i : Instr} {s : State} (hc : startCheck i s = none)
    (hu : startUndefined i s = none) (hi : interleaved s = false)
    (herr : workErrAddrs s.params (workLeft (Running.start i) s) ≠ [])
    (hhang : workHangs s.params (workLeft (Running.start i) s) = false) :
    ∃ t, exec i s = .next t ∧ t.status.errCode = .busError ∧
      ∃ a ∈ (exposed s.params (stepWindow i s.params) (workLeft (Running.start i) s)).errAddrs,
        t.regs.errAddr = BitVec.ofNat 32 a := by
  set work := workLeft (Running.start i) s
  set x := exposed s.params (stepWindow i s.params) work
  have hxhang : x.hangs = false := exposed_hangs_false _ _ _ hhang
  have hxerr : x.errAddrs ≠ [] := by
    have hmet : ∃ u ∈ work, u.answers s.params = false := by
      by_contra hall
      obtain ⟨hnone, -⟩ := (answers_all_iff s.params work).mp (by simpa using hall)
      exact herr hnone
    exact (exposed_met _ _ _ hmet).resolve_right (Bool.eq_false_iff.mp hxhang)
  refine ⟨busErrorEnd x.errAddrs work (beginCommand i s), ?_, rfl, _, pickErrAddr_mem _ hxerr, rfl⟩
  rw [exec_eq_runCommand, hc, hu]
  simp only [runCommand, hi, Bool.false_eq_true, if_false]
  exact endWith_busError _ x work _ _ rfl rfl hxerr hxhang

/-! ## The accesses of a copy (43_memcpy R312, 00_scope R13) -/

/-- An access of one byte that errs can only record its address. -/
theorem mem_errAddrs_byte {p : Params} {k : RangeKind} {a b : Nat} :
    a ∈ Access.errAddrs p k ⟨b, 1⟩ ↔ a = b ∧ answersAs p k b = true := by
  cases h : answersAs p k b <;> simp [Access.errAddrs, Access.addrs, h]

section
variable {s : State} {a j : Nat}

theorem mem_readErrAddrs_copyUnit : a ∈ (copyUnit s j).readErrAddrs s.params ↔
    a = s.regs.cpySrc.toNat + j ∧
      answersAs s.params .errorOnRead (s.regs.cpySrc.toNat + j) = true := by
  simp [WorkUnit.readErrAddrs, copyUnit, mem_errAddrs_byte]

theorem mem_writeErrAddrs_copyUnit : a ∈ (copyUnit s j).writeErrAddrs s.params ↔
    a = s.regs.cpyDst.toNat + j ∧
      answersAs s.params .errorOnWrite (s.regs.cpyDst.toNat + j) = true := by
  simp [WorkUnit.writeErrAddrs, copyUnit, mem_errAddrs_byte]

theorem copyUnit_read_ok (h : (copyUnit s j).readsReturn s.params = true) :
    answersAs s.params .errorOnRead (s.regs.cpySrc.toNat + j) = false := by
  simp only [WorkUnit.readsReturn, Bool.and_eq_true, List.isEmpty_iff] at h
  obtain ⟨hnone, -⟩ := h
  exact Bool.eq_false_iff.mpr fun hans =>
    List.ne_nil_of_mem (mem_readErrAddrs_copyUnit.mpr ⟨rfl, hans⟩) hnone

theorem copyUnit_write_ok (h : (copyUnit s j).answers s.params = true) :
    answersAs s.params .errorOnWrite (s.regs.cpyDst.toNat + j) = false := by
  obtain ⟨herr, -⟩ := (answers_iff _ _).mp h
  obtain ⟨-, hnone⟩ := List.append_eq_nil_iff.mp herr
  exact Bool.eq_false_iff.mpr fun hans =>
    List.ne_nil_of_mem (mem_writeErrAddrs_copyUnit.mpr ⟨rfl, hans⟩) hnone

end

/-- The unit at a position of the copy. -/
theorem getElem?_copyUnits {s : State} {n j : Nat} {u : WorkUnit} :
    ((List.range n).map (copyUnit s))[j]? = some u ↔ j < n ∧ copyUnit s j = u := by
  simp [List.getElem?_eq_some_iff]

/-- A step copies at least one byte (00_scope R9). -/
theorem vlb_pos {p : Params} (h : p.wf = true) : 0 < p.vlb.toNat := by
  simp only [Params.wf, Params.lanesPositive, Bool.and_eq_true, bne_iff_ne] at h
  obtain ⟨-, -, hvlb⟩ := h
  exact Nat.pos_of_ne_zero (by simpa [← BitVec.toNat_inj] using hvlb)

/-- What a copy meets, byte by byte: the writes already issued make no access. -/
theorem exposed_copyWork_start (w : Nat) (s : State) :
    exposed s.params w (copyWork (Running.start .memcpy) s) =
      exposed s.params w ((List.range s.regs.cpyLen.toNat).map (copyUnit s)) := by
  rw [copyWork_start]
  exact exposed_append _ _ [_] _ (by simp [issued_answers])

/-- Settles O41: the unit an address belongs to is a byte of the copy, and those before it have answered. -/
theorem copyErrorAddressIsOfAnIssuedAccess : Obligations.CopyErrorAddressIsOfAnIssuedAccess := by
  intro s hparams hc hu hi herr hhang readErrs writeErrs
  obtain ⟨t, hexec, hcode, a, ha, haddr⟩ := exec_busError hc hu hi herr hhang
  have hwindow : max 1 (stepWindow .memcpy s.params) = s.params.vlb.toNat :=
    max_eq_right (vlb_pos hparams)
  obtain ⟨j, u, hj, hanswered, hown⟩ :=
    exposed_errAddrs_issued (exposed_copyWork_start _ s ▸ ha)
  obtain ⟨hlt, rfl⟩ := getElem?_copyUnits.mp hj
  rw [hwindow] at hanswered
  have hunit : ∀ k ≤ j, ((List.range s.regs.cpyLen.toNat).map (copyUnit s))[k]? =
      some (copyUnit s k) := fun k hk => getElem?_copyUnits.mpr ⟨hk.trans_lt hlt, rfl⟩
  have hbefore : ∀ k, k + s.params.vlb.toNat ≤ j → readErrs k = false ∧ writeErrs k = false :=
    fun k hk =>
      have hans := hanswered k _ hk (hunit k (by omega))
      ⟨copyUnit_read_ok (readsReturn_of_answers hans), copyUnit_write_ok hans⟩
  refine ⟨t, j, hexec, hcode, hlt, ?_⟩
  obtain hread | ⟨hwrite, hreturned⟩ := hown
  · obtain ⟨rfl, herrs⟩ := mem_readErrAddrs_copyUnit.mp hread
    exact .inl ⟨haddr, herrs, hbefore⟩
  · obtain ⟨rfl, herrs⟩ := mem_writeErrAddrs_copyUnit.mp hwrite
    exact .inr ⟨haddr, herrs, fun k hk => copyUnit_read_ok (hreturned k _ hk (hunit k hk)),
      fun k hk => (hbefore k hk).2⟩

end Sys2Proof.Machine
end

section
/-! PROOFS. A START from the host's write to its outcome (60_exceptions R410, R411), and the `irq` level
(R420). -/

namespace Sys2Proof.Machine

open Claim

/-! ## The accepted START (60_exceptions R410) -/

/-- The host's START write accepts the command and runs the word in CMD. -/
theorem startCommand_decoded {s : State} {i : Instr} (h : decode s.regs.cmd = .ok i) :
    startCommand s = exec i (acceptStart s) := by
  rw [startCommand, h]

/-- Settles O7: the START write stores the enables, clears the flags, and runs the decoded command. -/
theorem stepRunsTheDecodedCommand : Obligations.StepRunsTheDecodedCommand := by
  intro s rest w i hp hd hb hsrst hstart hdec
  rw [step_start hp hd hb hsrst hstart,
    startCommand_decoded (s := storeEnables w (after s rest .done)) hdec]
  rfl

/-- A start-time error of a command raises that error and does nothing else (60_exceptions R411). -/
theorem exec_startError {i : Instr} {s : State} {e : ErrCode × Word} (h : startCheck i s = some e) :
    exec i s = .next (raiseError e.1 e.2 s) := by
  rw [exec_eq_runCommand, h, runCommand_error]

/-- Settles O26: an illegal word and a failed check both raise their error at the accepted START. -/
theorem startErrorIsPrecise : Obligations.StartErrorIsPrecise := by
  intro s rest w c a hp hd hr hb hsrst hstart herr
  rw [step_start hp hd hb hsrst hstart, ← raiseError_acceptStart rest w c a hr]
  obtain ⟨⟨e, he⟩, rfl, rfl⟩ | ⟨i, hi, hc⟩ := herr
  · have he' : decode (storeEnables w (after s rest .done)).regs.cmd = .error e := he
    rw [startCommand, he']
  · rw [startCommand_decoded (s := storeEnables w (after s rest .done)) hi]
    exact exec_startError (e := (c, a)) ((startCheck_congr (s := s) rfl).trans hc)

/-! ## The interrupt level (60_exceptions R420) -/

/-- DONE and ERR are bits 1 and 2 of STATUS (10_state R37). -/
theorem statusWord_done_err (st : Status) :
    (statusWord st).getLsbD 1 = st.done ∧ (statusWord st).getLsbD 2 = st.err := by
  simp only [statusWord, BitVec.getLsbD_append]
  simp

/-- DONE_IE and ERR_IE are bits 1 and 2 of CTRL (10_state R35). -/
theorem ctrlWord_enables (c : Ctrl) :
    (ctrlWord c).getLsbD 1 = c.doneIE ∧ (ctrlWord c).getLsbD 2 = c.errIE := by
  simp only [ctrlWord, BitVec.getLsbD_append]
  simp

/-- Settles O16: the words the host reads hold the four fields of the level. -/
theorem irqIsTheLevelOfStatusAndEnables : Obligations.IrqIsTheLevelOfStatusAndEnables := by
  intro s
  obtain ⟨hdone, herr⟩ := statusWord_done_err s.status
  obtain ⟨hdoneIE, herrIE⟩ := ctrlWord_enables s.ctrl
  simp only [State.irq, readReg, hdone, herr, hdoneIE, herrIE]

end Sys2Proof.Machine
end

section
/-! PROOFS. Where a step stops (60_exceptions R400, R406): a command faults at its START when it is UNDEFINED,
and a step stops there, at the end event of a raced command, or at a host access of a device. -/

namespace Sys2Proof.Machine

open Claim

/-! ## The UNDEFINED cases of a command (93 U1, U2, U3, U5) -/

/-- A command that passes its checks and is UNDEFINED faults at its START. -/
theorem exec_undefined {i : Instr} {s : State} {f : Fault} (hc : startCheck i s = none)
    (hu : startUndefined i s = some f) : exec i s = .fault f := by
  rw [exec_eq_runCommand, hc, hu]
  rfl

/-- A depth of 65536 or more is named first (40_conv R215). -/
theorem convUndefined_of_tooDeep {v : Variant} {bias : Bool} {s : State}
    (h : convTooDeep v s.regs = true) : convUndefined v bias s = some .accDepth := by
  rw [convUndefined, if_pos h]

/-- An OUT region that meets a read region is named unless the depth is (20_memory R124, log 11). -/
theorem convUndefined_of_aliased {v : Variant} {bias : Bool} {s : State}
    (h : ¬ ∀ r ∈ convReadRegions v bias s.regs, (convOut v s.regs).overlaps r = false) :
    convUndefined v bias s = some .outAliased ∨ convUndefined v bias s = some .accDepth := by
  have halias : (convReadRegions v bias s.regs).any ((convOut v s.regs).overlaps ·) = true := by
    simpa using h
  rw [convUndefined, if_pos halias]
  split
  · exact .inr rfl
  · exact .inl rfl

/-- Overlapping SRC and DST are named first (43_memcpy R313). -/
theorem copyUndefined_of_overlap {s : State}
    (h : (copySource s.regs).overlaps (copyDest s.regs) = true) :
    copyUndefined s = some .copyOverlap := by
  rw [copyUndefined, if_pos h]

/-- A command that is not UNDEFINED uses ordinary memory only (20_memory R106). -/
theorem ordinary_of_startUndefined {i : Instr} {s : State} (h : startUndefined i s = none) :
    Ordinary i s := by
  have hconv : ∀ {v : Variant} {bias : Bool}, convUndefined v bias s = none →
      ordinaryFault s.params (convRegions v bias s.regs) = none := fun h =>
    (convUndefined_eq_none.mp h).2.2
  have hcopy : copyUndefined s = none →
      ordinaryFault s.params [copySource s.regs, copyDest s.regs] = none := fun h => by
    unfold copyUndefined at h
    split at h
    · cases h
    · exact h
  cases i with
  | convS8 | convS16 => exact ordinaryFault_eq_none.mp (hconv h)
  | dotS8 | dotS16 =>
    exact fun r hr => ordinaryFault_eq_none.mp h r (by simpa [readRegions, writeRegions] using hr)
  | rqS8 | rqS16 => simp [Ordinary, readRegions, writeRegions]
  | memcpy => exact ordinaryFault_eq_none.mp (hcopy h)

/-- Settles O30, case by case: each makes `startUndefined` name a fault. -/
theorem undefinedCommandsFault : Obligations.UndefinedCommandsFault := by
  intro i s hc
  refine ⟨?_, ?_, ?_, fun hord => ?_⟩
  · rintro bias rfl hdepth
    exact exec_undefined hc (convUndefined_of_tooDeep (v := .s8) (decide_eq_true hdepth))
  · rintro bias (rfl | rfl) halias <;>
      exact (convUndefined_of_aliased
        (by simpa [NotAliased, readRegions, writeRegions] using halias)).imp
        (exec_undefined hc) (exec_undefined hc)
  · rintro rfl hlen hsrc hdst
    exact exec_undefined hc (copyUndefined_of_overlap (decide_eq_true ⟨hlen, hlen, hsrc, hdst⟩))
  · obtain ⟨f, hf⟩ := Option.ne_none_iff_exists'.mp fun hu => hord (ordinary_of_startUndefined hu)
    exact ⟨f, exec_undefined hc hf⟩

/-! ## Stops of a command -/

/-- From its START a command faults only when it is UNDEFINED. -/
theorem exec_fault {i : Instr} {s : State} {f : Fault} (h : exec i s = .fault f) :
    startCheck i s = none ∧ startUndefined i s = some f := by
  rw [exec_eq_runCommand] at h
  obtain ⟨e, -, h'⟩ | ⟨f', hc, hu, h'⟩ | ⟨-, -, -, h'⟩ | ⟨-, -, -, h'⟩ :=
    runCommand_cases i (startCheck i s) (startUndefined i s) (stepWindow i s.params)
      (workLeft (Running.start i) s) (resultRegs (Running.start i) s) s <;> rw [h'] at h
  · cases h
  · cases h; exact ⟨hc, hu⟩
  · cases h
  · obtain ⟨-, hraced⟩ := endWith_fault h
    cases hraced

/-- A command never refuses. -/
theorem exec_not_refused (i : Instr) (s : State) (f : Refusal) : exec i s ≠ .refused f := by
  rw [exec_eq_runCommand]
  obtain ⟨e, -, h⟩ | ⟨f', -, -, h⟩ | ⟨-, -, -, h⟩ | ⟨-, -, -, h⟩ :=
    runCommand_cases i (startCheck i s) (startUndefined i s) (stepWindow i s.params)
      (workLeft (Running.start i) s) (resultRegs (Running.start i) s) s <;> rw [h]
  · simp
  · simp
  · simp
  · exact endWith_not_refused _ _ _ _ _ f

/-- An internal step faults only for a race. -/
theorem engineTurn_fault {ask : Nat} {r : Running} {s : State} {f : Fault}
    (h : engineTurn ask r s = .fault f) : f = .hostRace ∧ r.raced = true := by
  obtain ⟨-, h'⟩ | ⟨-, -, h'⟩ | ⟨-, -, h'⟩ := engineTurn_cases ask r s <;> rw [h'] at h
  · cases h
  · cases h
  · exact endWith_fault h

theorem engineTurn_not_refused (ask : Nat) (r : Running) (s : State) (f : Refusal) :
    engineTurn ask r s ≠ .refused f := by
  obtain ⟨-, h⟩ | ⟨-, -, h⟩ | ⟨-, -, h⟩ := engineTurn_cases ask r s <;> rw [h]
  · simp
  · simp
  · exact endWith_not_refused _ _ _ _ _ f

/-! ## Stops of a register write -/

/-- CMD holds a command that passes its checks and is UNDEFINED, by the case `f`. -/
abbrev UndefinedInCmd (s : State) (f : Fault) : Prop :=
  ∃ i, decode s.regs.cmd = .ok i ∧ startCheck i s = none ∧ startUndefined i s = some f

/-- Which command that is depends on the registers other than ERR_ADDR and on the platform. -/
theorem UndefinedInCmd.of_regs {s t : State} {f : Fault} {a : Word} (h : UndefinedInCmd t f)
    (hregs : t.regs = { s.regs with errAddr := a }) (hparams : t.params = s.params) :
    UndefinedInCmd s f := by
  obtain ⟨i, hi, hc, hu⟩ := h
  rw [startCheck_congr hregs] at hc
  rw [startUndefined_congr hregs hparams] at hu
  exact ⟨i, by rwa [hregs] at hi, hc, hu⟩

/-- A START faults only when the command in CMD is UNDEFINED. -/
theorem startCommand_fault {s : State} {f : Fault} (h : startCommand s = .fault f) :
    UndefinedInCmd s f := by
  unfold startCommand at h
  split at h
  · cases h
  next i hi =>
    exact UndefinedInCmd.of_regs (t := acceptStart s) ⟨i, hi, exec_fault h⟩ rfl rfl

theorem startCommand_not_refused (s : State) (f : Refusal) : startCommand s ≠ .refused f := by
  unfold startCommand
  split
  · simp
  · exact exec_not_refused _ _ f

/-- A CTRL write faults only when it starts an UNDEFINED command. -/
theorem writeCtrl_fault {w : Word} {s : State} {f : Fault} (h : writeCtrl w s = .fault f) :
    (w.getLsbD 31 = false ∧ w.getLsbD 0 = true) ∧ s.status.busy = false ∧ UndefinedInCmd s f := by
  unfold writeCtrl at h
  split_ifs at h with hsrst hbusy hstart
  exact ⟨⟨by simpa using hsrst, hstart⟩, by simpa using hbusy,
    (startCommand_fault h).of_regs (a := s.regs.errAddr) rfl rfl⟩

theorem writeCtrl_not_refused (w : Word) (s : State) (f : Refusal) : writeCtrl w s ≠ .refused f := by
  unfold writeCtrl
  split_ifs
  · simp
  · simp
  · exact startCommand_not_refused _ f
  · simp

/-- A register write faults only as a CTRL write does. -/
theorem hostWriteReg_fault {r : Reg} {w : Word} {s : State} {f : Fault}
    (h : hostWriteReg r w s = .fault f) : r = .ctrl ∧ writeCtrl w s = .fault f := by
  unfold hostWriteReg at h
  split at h
  · exact ⟨rfl, h⟩
  · cases h
  · split at h <;> cases h

theorem hostWriteReg_not_refused (r : Reg) (w : Word) (s : State) (f : Refusal) :
    hostWriteReg r w s ≠ .refused f := by
  unfold hostWriteReg
  split
  · exact writeCtrl_not_refused _ _ f
  · simp
  · split <;> simp

/-! ## Stops of a host access -/

/-- A load from the data space never faults, and is refused only at a device or a silent address (log 18). -/
theorem hostReadData_stops (addr : Word) (width : Width) (s : State) :
    (∀ f, hostReadData ⟨addr.toNat, width.bytes⟩ s ≠ .fault f) ∧
    ∀ f, hostReadData ⟨addr.toNat, width.bytes⟩ s = .refused f →
      f = .hostDeviceAccess ∧ ¬ HostClear [.device, .silent] s addr width := by
  refine ⟨fun f => ?_, fun f h => ⟨?_, fun hclear => ?_⟩⟩
  · simp only [hostReadData]
    split_ifs <;> simp
  · simp only [hostReadData] at h
    split_ifs at h
    cases h; rfl
  · obtain ⟨t, ht⟩ := hostReadData_answered hclear
    cases ht.symm.trans h

/-- Nor does a store to the data space fault, and it is refused alike. -/
theorem hostWriteData_stops (addr : Word) (width : Width) (value : BitVec 64) (s : State) :
    (∀ f, hostWriteData ⟨addr.toNat, width.bytes⟩ value s ≠ .fault f) ∧
    ∀ f, hostWriteData ⟨addr.toNat, width.bytes⟩ value s = .refused f →
      f = .hostDeviceAccess ∧ ¬ HostClear [.device, .silent] s addr width := by
  refine ⟨fun f => ?_, fun f h => ⟨?_, fun hclear => ?_⟩⟩
  · simp only [hostWriteData]
    split_ifs <;> simp
  · simp only [hostWriteData] at h
    split_ifs at h
    cases h; rfl
  · obtain ⟨t, ht⟩ := hostWriteData_answered value hclear
    cases ht.symm.trans h

/-- Only a 32-bit access reaches a register (10_state R50). -/
theorem width_of_targetOf_reg {p : Params} {addr : Word} {width : Width} {r : Reg}
    (h : targetOf p addr width = .reg r) : width = .w32 := by
  unfold targetOf at h
  split_ifs at h with hle hblock hform
  exact hform.1

/-- A host event faults only as a START write with BUSY = 0 of an UNDEFINED command. -/
theorem hostEvent_fault {e : HostEvent} {s : State} {f : Fault} (h : hostEvent e s = .fault f) :
    WritesCtrl s e (fun w => w.getLsbD 31 = false ∧ w.getLsbD 0 = true) ∧ s.status.busy = false ∧
      UndefinedInCmd s f := by
  cases e with
  | read addr w =>
    simp only [hostEvent, hostRead] at h
    split at h
    next => cases h
    next => cases h
    next => cases h
    next => exact absurd h ((hostReadData_stops addr w s).1 f)
  | write addr w value =>
    simp only [hostEvent, hostWrite] at h
    split at h
    next => cases h
    next => cases h
    next r ht =>
      obtain ⟨rfl, hw⟩ := hostWriteReg_fault h
      obtain ⟨hbits, hbusy, hundef⟩ := writeCtrl_fault hw
      obtain rfl := width_of_targetOf_reg ht
      exact ⟨⟨addr, value, rfl, ht, hbits⟩, hbusy, hundef.of_regs (a := s.regs.errAddr) rfl rfl⟩
    next => exact absurd h ((hostWriteData_stops addr w value s).1 f)
  | clean | invalidate | hardReset => cases h

/-- A host event is refused only as an access of the data space at a device or a silent address. -/
theorem hostEvent_refused {e : HostEvent} {s : State} {f : Refusal} (h : hostEvent e s = .refused f) :
    f = .hostDeviceAccess ∧ ∃ addr width,
      (e = .read addr width ∨ ∃ value, e = .write addr width value) ∧
      targetOf s.params addr width = .data ∧ ¬ HostClear [.device, .silent] s addr width := by
  cases e with
  | read addr w =>
    simp only [hostEvent, hostRead] at h
    split at h
    next => cases h
    next => cases h
    next => cases h
    next ht =>
      obtain ⟨hf, hclear⟩ := (hostReadData_stops addr w s).2 f h
      exact ⟨hf, addr, w, .inl rfl, ht, hclear⟩
  | write addr w value =>
    simp only [hostEvent, hostWrite] at h
    split at h
    next => cases h
    next => cases h
    next => exact absurd h (hostWriteReg_not_refused _ _ _ f)
    next ht =>
      obtain ⟨hf, hclear⟩ := (hostWriteData_stops addr w value s).2 f h
      exact ⟨hf, addr, w, .inr ⟨value, rfl⟩, ht, hclear⟩
  | clean | invalidate | hardReset => cases h

/-! ## Stops of a step -/

/-- A step takes a host event, or makes a step of its own that faults only at a race and never refuses. -/
theorem step_host_or_engine (s : State) :
    (∃ e rest, Delivered e s rest ∧ step s = hostEvent e { s with pending := rest }) ∨
    (EngineEvent s ∧ (∀ f, step s = .fault f →
        f = .hostRace ∧ ∃ r, s.running = some r ∧ r.raced = true) ∧
      ∀ f, step s ≠ .refused f) := by
  by_cases he : EngineEvent s
  · obtain hr | ⟨r, hr⟩ := Option.eq_none_or_eq_some s.running
    · match hp : s.pending with
      | [] => exact .inr ⟨he, by simp [step_idle s hp hr]⟩
      | .host e :: rest => exact .inl ⟨e, rest, .inl ⟨hp, hr⟩, step_host s e rest hp hr⟩
      | .during e :: rest => exact absurd hp (he e rest)
      | .turn ask :: rest => exact .inr ⟨he, by simp [step_turn_idle s ask rest hp hr]⟩
    · refine .inr ⟨he, ?_⟩
      obtain ⟨ask, rest, -, h⟩ | ⟨-, h⟩ := step_engineEvent hr he <;> rw [h]
      · exact ⟨fun f hf => (engineTurn_fault hf).imp_right fun h => ⟨r, hr, h⟩,
          engineTurn_not_refused ask r _⟩
      · exact ⟨fun f hf => (endWith_fault hf).imp_right fun h => ⟨r, hr, h⟩,
          endWith_not_refused r _ _ _ s⟩
  · simp only [EngineEvent, not_forall, not_not] at he
    obtain ⟨e, rest, hp⟩ := he
    exact .inl ⟨e, rest, .inr hp, step_during s e rest hp⟩

/-- Settles O31: a step of the engine stops only at a race, a host event only at the START of an UNDEFINED
command or at a device. -/
theorem stepStopsOnlyWhereTheSpecIsUndefined : Obligations.StepStopsOnlyWhereTheSpecIsUndefined := by
  refine ⟨fun s f h => ?_, fun s f h => ?_⟩ <;>
    obtain ⟨e, rest, hd, hstep⟩ | ⟨he, hfault, hrefused⟩ := step_host_or_engine s
  · rw [hstep] at h
    obtain ⟨hw, hbusy, hundef⟩ := hostEvent_fault h
    obtain ⟨i, hundef⟩ := hundef.of_regs (s := s) (a := s.regs.errAddr) rfl rfl
    exact .inr ⟨e, rest, i, hd, hw, hbusy, hundef⟩
  · obtain ⟨hf, hraced⟩ := hfault f h
    exact .inl ⟨hf, hraced, he⟩
  · rw [hstep] at h
    obtain ⟨hf, addr, width, hform, ht, hclear⟩ := hostEvent_refused h
    exact ⟨hf, e, rest, addr, width, hd, hform, ht, hclear⟩
  · exact absurd h (hrefused f)

end Sys2Proof.Machine
end

section
/-! PROOFS. A bus error at the START of a command leaves its registers, and each byte old or stored (60_exceptions
R403, R412). -/

namespace Sys2Proof.Machine

open Claim

/-! ## ERR_ADDR lies in a region of the command (60_exceptions R403) -/

/-- The address an erring access records is one of its bytes. -/
theorem Access.mem_errAddrs {p : Params} {k : RangeKind} {x : Access} {a : Nat}
    (h : a ∈ x.errAddrs p k) : x.addr ≤ a ∧ a < x.addr + x.bytes := by
  simp only [Access.errAddrs] at h
  split at h
  · cases h
  next hbad =>
    obtain rfl | h := List.mem_cons.mp h
    · obtain ⟨b, hb⟩ := List.exists_mem_of_ne_nil _ (by simpa only [List.isEmpty_iff] using hbad)
      have := Access.mem_addrs.mp (List.mem_of_mem_filter hb)
      omega
    · exact Access.mem_addrs.mp (List.mem_of_mem_filter h)

/-- An address that a unit of work may record lies in one of the unit's regions. -/
theorem WorkUnit.Within.errAddrs {p : Params} {readable writable : List Region} {u : WorkUnit}
    {a : Nat} (hu : u.Within readable writable) (h : a ∈ u.errAddrs p) :
    ∃ r ∈ readable ++ writable, r.base ≤ a ∧ a < r.base + r.size := by
  have hin : ∀ {k : RangeKind} {x : Access} {r : Region}, r.Holds x → a ∈ x.errAddrs p k →
      r.base ≤ a ∧ a < r.base + r.size := fun hx ha => by
    obtain ⟨hlo, hhi⟩ := hx
    have := Access.mem_errAddrs ha
    omega
  obtain h | h := List.mem_append.mp h <;> obtain ⟨x, hx, ha⟩ := List.mem_flatMap.mp h
  · obtain ⟨r, hr, hxr⟩ := hu.reads x hx
    exact ⟨r, List.mem_append_left _ hr, hin hxr ha⟩
  · obtain ⟨r, hr, hxr⟩ := hu.writes x hx
    exact ⟨r, List.mem_append_right _ hr, hin hxr ha⟩

theorem workErrAddrs_start_mem_region {i : Instr} {s : State} {a : Nat} (hc : startCheck i s = none)
    (h : a ∈ workErrAddrs s.params (workLeft (Running.start i) s)) :
    ∃ r ∈ readRegions i s.regs ++ writeRegions i s.regs, r.base ≤ a ∧ a < r.base + r.size := by
  obtain ⟨u, hu, ha⟩ := List.mem_flatMap.mp h
  exact (workLeft_start_within hc u hu).errAddrs ha

/-! ## Each byte is old or the value of the rule (60_exceptions R412) -/

/-- From its START a command stores each byte once. -/
theorem workCells_start_nodup (i : Instr) (s : State) :
    ((workCells (workLeft (Running.start i) s)).map (·.1)).Nodup := by
  cases i with
  | convS8 | convS16 => exact workCells_convWork_nodup ..
  | dotS8 | dotS16 =>
    simp only [workLeft, Running.start, dotWork, workCells_dotUnits, List.map_nil, List.nodup_nil]
  | rqS8 | rqS16 => exact List.nodup_nil
  | memcpy => exact workCells_copyWork_nodup s

/-- Of work that stores each byte once, a byte that was stored holds what a completion would leave. -/
theorem StoresOf.read_old_or_complete {work : List WorkUnit} {s t : State} (h : StoresOf work s t)
    (hwf : s.mem.wf = true) (hnodup : ((workCells work).map (·.1)).Nodup) (a : Nat) :
    t.mem.read a = s.mem.read a ∨
      t.mem.read a = (s.mem.writeCells (workCells work)).read a :=
  (h.read_cases hwf a).imp_right fun hmem =>
    (Memory.read_writeCells_mem s.mem _ a _ hwf hmem hnodup).symm

/-! ## The command -/

/-- A command that passes its checks, is not UNDEFINED and meets no event ends at its START. -/
theorem exec_eq_endCommand {i : Instr} {s : State} (hc : startCheck i s = none)
    (hu : startUndefined i s = none) (hi : interleaved s = false) :
    exec i s = endCommand (Running.start i) (beginCommand i s) := by
  rw [exec_eq_runCommand, hc, hu, endCommand, exposedLeft, workLeft_beginCommand,
    resultRegs_beginCommand]
  simp only [runCommand, hi, Bool.false_eq_true, if_false]
  rfl

/-- Of work in which some access errs and none hangs, an access that errs is met. -/
theorem exposed_errAddrs_ne_nil {p : Params} {work : List WorkUnit} (w : Nat)
    (herr : workErrAddrs p work ≠ []) (hhang : workHangs p work = false) :
    (exposed p w work).errAddrs ≠ [] := by
  have hmet : ∃ u ∈ work, u.answers p = false := by
    by_contra hall
    obtain ⟨hnone, -⟩ := (answers_all_iff p work).mp (by simpa using hall)
    exact herr hnone
  exact (exposed_met _ _ _ hmet).resolve_right (by simp [exposed_hangs_false p w work hhang])

/-- Settles O29: the command ends with `busErrorEnd`, whose address is one that the work may record and whose
bytes are some of the work's. -/
theorem busErrorEndsTheCommand : Obligations.BusErrorEndsTheCommand := by
  intro i s hc hu hi hwf herr hhang
  set work := workLeft (Running.start i) s
  set x := exposed s.params (stepWindow i s.params) work
  have hxerr : x.errAddrs ≠ [] := exposed_errAddrs_ne_nil _ herr hhang
  have hexec : exec i s = .next (busErrorEnd x.errAddrs work (beginCommand i s)) := by
    rw [exec_eq_endCommand hc hu hi, endCommand, exposedLeft, workLeft_beginCommand]
    exact endWith_busError _ x work _ _ rfl rfl hxerr (exposed_hangs_false _ _ _ hhang)
  have hstores : StoresOf work (beginCommand i s) (busErrorEnd x.errAddrs work (beginCommand i s)) :=
    .of_endWith (exec_eq_endCommand hc hu hi ▸ hexec)
  have haddr : pickErrAddr s.draws x.errAddrs ∈ workErrAddrs s.params work :=
    exposed_errAddrs_subset _ _ _ _ (pickErrAddr_mem _ hxerr)
  exact ⟨_, hexec, rfl, rfl, rfl, rfl, ⟨_, haddr, rfl, workErrAddrs_start_mem_region hc haddr⟩,
    fun a ha => read_exec_outside hexec ha,
    hstores.read_old_or_complete hwf (workCells_start_nodup i s)⟩

end Sys2Proof.Machine
end

section
/-! PROOFS. A command run on with any sequence of grants ends as it would at once (40_conv R225, 41_dot R256,
43_memcpy R314). -/

namespace Sys2Proof.Machine

open Claim

/-! ## The accesses of a step are accesses of the command -/

/-- Every access of the unit is one of the work, a read a read and a write a write. -/
structure WorkUnit.PartOf (u : WorkUnit) (work : List WorkUnit) : Prop where
  reads : ∀ x ∈ u.reads, ∃ w ∈ work, x ∈ w.reads
  writes : ∀ x ∈ u.writes, ∃ w ∈ work, x ∈ w.writes

theorem WorkUnit.PartOf.answers {p : Params} {u : WorkUnit} {work : List WorkUnit}
    (h : u.PartOf work) (ha : ∀ w ∈ work, w.answers p = true) : u.answers p = true := by
  refine answers_iff_accesses.mpr ⟨fun x hx => ?_, fun x hx => ?_⟩
  · obtain ⟨w, hw, hx⟩ := h.reads x hx
    exact (answers_iff_accesses.mp (ha w hw)).1 x hx
  · obtain ⟨w, hw, hx⟩ := h.writes x hx
    exact (answers_iff_accesses.mp (ha w hw)).2 x hx

/-- A step without accesses. -/
theorem WorkUnit.PartOf.idle (work : List WorkUnit) : WorkUnit.PartOf ⟨[], [], []⟩ work :=
  ⟨by simp, by simp⟩

/-- A step that makes all accesses of some units of the work. -/
theorem WorkUnit.PartOf.joined {units work : List WorkUnit} (h : units ⊆ work) :
    (WorkUnit.joined units).PartOf work where
  reads x hx := by
    obtain ⟨w, hw, hx⟩ := List.mem_flatMap.mp hx
    exact ⟨w, h hw, hx⟩
  writes x hx := by
    obtain ⟨w, hw, hx⟩ := List.mem_flatMap.mp hx
    exact ⟨w, h hw, hx⟩

/-- The units of the first `m` indices of a loop are among those of all `n`. -/
theorem map_range'_subset {f : Nat → WorkUnit} (lo : Nat) {m n : Nat} (h : m ≤ n) :
    (List.range' lo m).map f ⊆ (List.range' lo n).map f := by
  rw [range'_split lo h, List.map_append]
  exact List.subset_append_left _ _

theorem dotTurnUnit_partOf (v : Variant) (ask : Nat) (r : Running) (s : State) :
    (dotTurnUnit v ask r s).PartOf (dotWork v r s) := by
  unfold dotTurnUnit
  split
  next h => exact .joined (map_range'_subset _ (granted_le (Nat.sub_pos_of_lt h)))
  next => exact .idle _

theorem copyTurnUnit_partOf (ask : Nat) (r : Running) (s : State) :
    (copyTurnUnit ask r s).PartOf (copyWork r s) := by
  unfold copyTurnUnit
  split
  next h =>
    exact .joined (List.subset_cons_of_subset _
      (map_range'_subset _ (granted_le (Nat.sub_pos_of_lt h))))
  next => exact .idle _

/-- A step of the loop nest makes reads of the output element in progress, or its output stage. -/
theorem convTurnUnit_partOf (v : Variant) (bias : Bool) (ask : Nat) (r : Running) (s : State) :
    (convTurnUnit v bias ask r s).PartOf (convWork v bias r s) := by
  unfold convTurnUnit
  split_ifs with he ht hin
  · have hle := granted_le (ask := ask) (vlmax := v.vlmax s.params) (Nat.sub_pos_of_lt hin.2)
    rw [convWork_of_lt v bias r s he, convUnit_vectorStep r.acc ht hin.1 hin.2 hle]
    exact ⟨fun x hx => ⟨_, List.mem_cons_of_mem _ List.mem_cons_self, List.mem_append_left _ hx⟩,
      by simp⟩
  · exact .idle _
  · rw [convWork_of_lt v bias r s he, convUnit_tapsDone r.acc ht]
    exact ⟨fun x hx => ⟨_, List.mem_cons_of_mem _ List.mem_cons_self, hx⟩,
      fun x hx => ⟨_, List.mem_cons_of_mem _ List.mem_cons_self, hx⟩⟩
  · exact .idle _

theorem turnUnit_partOf (ask : Nat) (r : Running) (s : State) :
    (turnUnit ask r s).PartOf (workLeft r s) := by
  unfold turnUnit workLeft
  cases r.cmd with
  | convS8 | convS16 => exact convTurnUnit_partOf ..
  | dotS8 | dotS16 => exact dotTurnUnit_partOf ..
  | rqS8 | rqS16 => exact .idle _
  | memcpy => exact copyTurnUnit_partOf ..

/-! ## Steps of a command that the platform answers -/

/-- Work that ends a command as answered work does is answered. -/
theorem EndsAlike.answers {p : Params} {work work' : List WorkUnit} (h : EndsAlike p work work')
    (ha : ∀ u ∈ work, u.answers p = true) : ∀ u ∈ work', u.answers p = true := by
  by_contra hnot
  have hmet := exposed_met p 1 work' (by simpa using hnot)
  rw [h.met, exposed_of_answers p 1 work ha] at hmet
  simp at hmet

section
variable {ask : Nat} {r : Running} {s : State} (hst : r.stalled = false)
  (ha : ∀ u ∈ workLeft r s, u.answers s.params = true)
include hst ha

/-- A step of a command whose work is answered goes on, and what is left is answered. -/
theorem engineTurn_answered :
    engineTurn ask r s = .next { s with running := some (turnRunning ask r s) } ∧
      ∀ u ∈ workLeft (turnRunning ask r s) s, u.answers s.params = true := by
  have hu : (turnUnit ask r s).answers s.params = true := (turnUnit_partOf ask r s).answers ha
  refine ⟨?_, ((turnUnit_stepsTo ask r s).endsAlike hu).answers ha⟩
  simp only [engineTurn, hst, hu, Bool.false_eq_true, if_false, if_true]

/-- Such a step leaves the end of the command as it is. -/
theorem endCommand_turn_answered :
    endCommand (turnRunning ask r s) { s with running := some (turnRunning ask r s) } =
      endCommand r s :=
  endCommand_turnRunning hst ((answers_all_iff _ _).mp ha).2 ((turnUnit_partOf ask r s).answers ha)

end

/-! ## A run of grants -/

/-- The events to come are no matter of an internal step. -/
theorem turnRunning_pending (ask : Nat) (r : Running) (rest : List Input) (s : State) :
    turnRunning ask r { s with pending := rest } = turnRunning ask r s := by
  unfold turnRunning
  cases r.cmd <;> rfl

theorem run_one (s : State) : Host.Core.run Sys2Proof.core 1 s = step s := by
  simp only [Host.Core.run]
  cases h : Host.Core.step Sys2Proof.core s <;> exact h.symm

theorem run_succ_of_next {n : Nat} {s t : State} (h : step s = .next t) :
    Host.Core.run Sys2Proof.core (n + 1) s = Host.Core.run Sys2Proof.core n t := by
  change Host.Core.step Sys2Proof.core s = .next t at h
  simp only [Host.Core.run, h]

/-- Whatever it is granted, a command whose work is answered comes to the end it has at once. -/
theorem run_turns {asks : List Nat} {r : Running} {s : State} (hr : s.running = some r)
    (hp : s.pending = asks.map .turn) (hst : r.stalled = false)
    (ha : ∀ u ∈ workLeft r s, u.answers s.params = true) :
    Host.Core.run Sys2Proof.core (asks.length + 1) s = endCommand r { s with pending := [] } := by
  induction asks generalizing r s with
  | nil =>
    have hs : { s with pending := [] } = s := by rw [← hp.trans List.map_nil]
    rw [hs]
    exact (run_one s).trans (step_end_nil s r hp hr)
  | cons ask asks ih =>
    have hwork : ∀ rest, ∀ u ∈ workLeft r { s with pending := rest }, u.answers s.params = true :=
      fun rest => by rwa [workLeft_pending]
    obtain ⟨hturn, hleft⟩ := engineTurn_answered (ask := ask)
      (s := { s with pending := asks.map .turn }) hst (hwork _)
    have hend := endCommand_turn_answered (ask := ask) (s := { s with pending := [] }) hst (hwork _)
    have hsame : turnRunning ask r { s with pending := asks.map .turn } =
        turnRunning ask r { s with pending := [] } :=
      (turnRunning_pending ask r _ s).trans (turnRunning_pending ask r _ s).symm
    rw [List.length_cons, run_succ_of_next ((step_turn s r ask _ hp hr).trans hturn),
      ih rfl rfl ((turnRunning_marks ..).1.trans hst) (by rwa [workLeft_running]), hsame]
    exact hend

/-! ## The START of a command with an event inside it (60_exceptions R410) -/

/-- An entry that does not wait for BUSY = 0 falls inside the command. -/
theorem interleaved_of_cons {s : State} {x : Input} {rest : List Input} (hp : s.pending = x :: rest)
    (hx : ∀ e, x ≠ .host e) : interleaved s = true := by
  unfold interleaved
  rw [hp]
  cases x with
  | host e => exact absurd rfl (hx e)
  | during e => rfl
  | turn ask => rfl

/-- Settles O37: at its START the command only begins, and the grants bring it to the end event that the START
would have made at once. -/
theorem everyGrantSequenceGivesTheSameResult : Obligations.EveryGrantSequenceGivesTheSameResult := by
  refine ⟨fun i s x rest hc hu hp hx => ?_, fun i s asks hc hu ha hp => ?_⟩
  · rw [exec_eq_runCommand, hc, hu, runCommand, if_pos (interleaved_of_cons hp hx)]
    rfl
  · have hanswers : ∀ u ∈ workLeft (Running.start i) (begun i s), u.answers s.params = true := by
      rw [show begun i s = beginCommand i s from rfl, workLeft_beginCommand]
      exact workLeft_start_answers hc ha
    have hrun := run_turns (s := begun i s) (r := Running.start i) rfl hp rfl hanswers
    exact hrun.trans (exec_eq_endCommand (s := { s with pending := [] })
      ((startCheck_congr (s := s) rfl).trans hc) ((startUndefined_congr (s := s) rfl rfl).trans hu)
      rfl).symm

end Sys2Proof.Machine
end

section
/-! PROOFS. The three ways a running command ends (60_exceptions R422, 70_reset R503). -/

namespace Sys2Proof.Machine

open Claim

/-! ## What ends a command -/

/-- The command ended by itself, and STATUS says how (60_exceptions R412, R413). -/
abbrev EndedByItself (t : State) : Prop :=
  (t.status.done = true ∧ t.status.err = false) ∨
    (t.status.done = false ∧ t.status.err = true ∧ t.status.errCode = .busError)

/-- An end event that clears BUSY is a completion or a bus error. -/
theorem endWith_ended {r : Running} {x : Exposed} {work : List WorkUnit} {results : Regs} {s t : State}
    (hb : s.status.busy = true) (hd : s.status.done = false) (he : s.status.err = false)
    (h : endWith r x work results s = .next t) (ht : t.status.busy = false) : EndedByItself t := by
  obtain rfl | rfl | rfl | rfl := endWith_next h
  · simp [hb] at ht
  · simp [hb] at ht
  · exact .inl ⟨rfl, he⟩
  · exact .inr ⟨hd, rfl, rfl⟩

/-- A step of the engine that clears BUSY is a completion or a bus error. -/
theorem step_ended {r : Running} {s t : State} (hr : s.running = some r) (hb : s.status.busy = true)
    (hd : s.status.done = false) (he : s.status.err = false) (hengine : EngineEvent s)
    (h : step s = .next t) (ht : t.status.busy = false) : EndedByItself t := by
  obtain ⟨ask, rest, -, h'⟩ | ⟨-, h'⟩ := step_engineEvent hr hengine <;> rw [h'] at h
  · obtain ⟨-, h'⟩ | ⟨-, -, h'⟩ | ⟨-, -, h'⟩ := engineTurn_cases ask r { s with pending := rest } <;>
      rw [h'] at h
    · cases h; simp [hb] at ht
    · cases h; simp [hb] at ht
    · exact endWith_ended (s := { s with pending := rest }) hb hd he h ht
  · exact endWith_ended hb hd he h ht

/-- A register write that clears BUSY is a soft reset (10_state R51, 70_reset R503). -/
theorem hostWriteReg_ended {r : Reg} {w : Word} {s t : State} (hb : s.status.busy = true)
    (h : hostWriteReg r w s = .next t) (ht : t.status.busy = false) :
    r = .ctrl ∧ w.getLsbD 31 = true ∧ t = resetBlock s := by
  obtain ⟨hr, h⟩ | ⟨-, rfl⟩ | ⟨-, -, -, rfl⟩ | ⟨-, -, hidle, -⟩ := hostWriteReg_next h
  · obtain ⟨hw, rfl⟩ | ⟨-, -, rfl⟩ | ⟨-, hidle, -⟩ | ⟨-, hidle, -⟩ := writeCtrl_next h
    · exact ⟨hr, hw, rfl⟩
    · simp [hb] at ht
    · simp [hb] at hidle
    · simp [hb] at hidle
  · simp [hb] at ht
  · simp [hb] at ht
  · simp [hb] at hidle

/-- What leaves the block as it is leaves BUSY = 1. -/
theorem SameBlock.busy {s t : State} (h : SameBlock s t) (hb : s.status.busy = true) :
    t.status.busy = true := by
  rw [h.status, hb]

/-- A host event that clears BUSY is a hard or soft reset (70_reset R500, R503). -/
theorem hostEvent_ended {e : HostEvent} {s t : State} (hb : s.status.busy = true)
    (h : hostEvent e s = .next t) (ht : t.status.busy = false) :
    IsReset s e ∧ t = resetBlock (respond .done s) := by
  have hnot : ¬ SameBlock s t := fun hsame => by simp [hsame.busy hb] at ht
  cases e with
  | read addr w => exact absurd (sameBlock_hostRead h) hnot
  | write addr w value =>
    obtain ⟨-, rfl⟩ | ⟨-, rfl⟩ | ⟨r, htarget, h⟩ | ⟨-, h⟩ := hostWrite_next h
    · exact absurd (sameBlock_strayAccess _ _ s) hnot
    · simp [hb] at ht
    · obtain ⟨rfl, hw, rfl⟩ := hostWriteReg_ended (s := respond .done s) hb h ht
      obtain rfl := width_of_targetOf_reg htarget
      exact ⟨.inr ⟨addr, value, rfl, htarget, hw⟩, rfl⟩
    · refine absurd ?_ hnot
      obtain rfl | rfl := hostWriteData_next h <;>
        exact (sameBlock_markRace _ s).of_eq rfl rfl rfl rfl
  | clean addr size =>
    cases h; exact (hnot ((sameBlock_hostClean _ s).of_eq rfl rfl rfl rfl)).elim
  | invalidate addr size =>
    cases h; exact (hnot ((sameBlock_hostInvalidate _ s).of_eq rfl rfl rfl rfl)).elim
  | hardReset => cases h; exact ⟨.inl rfl, rfl⟩

/-- A reset leaves the registers and the enables at their reset values (70_reset R501). -/
theorem resetBlock_regs_ctrl (s : State) :
    (resetBlock s).regs = Regs.reset ∧ (resetBlock s).ctrl = Ctrl.reset := by
  obtain ⟨-, h⟩ | ⟨r, -, ⟨-, h⟩ | ⟨-, h⟩⟩ := resetBlock_cases s <;> rw [h] <;> exact ⟨rfl, rfl⟩

/-- Settles O55: BUSY follows the running command, so the step that ends it clears BUSY: a step of the engine
by itself, a host event only by a reset. -/
theorem commandsEndOnlyInTheThreeWays : Obligations.CommandsEndOnlyInTheThreeWays := by
  intro s t r hgood hr h ht
  obtain ⟨hrun, hdone, herr, -, -⟩ := (statusGood_iff s).mp hgood
  obtain ⟨hrun', -⟩ := (statusGood_iff t).mp (stepKeepsStatusExclusive s t hgood h)
  have hb : s.status.busy = true := by rw [hrun, hr]; rfl
  refine ⟨by simpa [ht] using hrun', ?_⟩
  by_cases he : EngineEvent s
  · exact (step_ended hr hb (hdone hb) (herr hb) he h ht).imp (⟨he, ·⟩) fun hfail => .inl ⟨he, hfail⟩
  · simp only [EngineEvent, not_forall, not_not] at he
    obtain ⟨e, rest, hp⟩ := he
    rw [step_during s e rest hp] at h
    obtain ⟨hreset, rfl⟩ := hostEvent_ended (s := { s with pending := rest }) hb h ht
    obtain ⟨hregs, hctrl⟩ := resetBlock_regs_ctrl (respond .done { s with pending := rest })
    exact .inr (.inr ⟨resetBlock_status _, hregs, hctrl, e, rest, hp, hreset⟩)

end Sys2Proof.Machine
end

section
/-! PROOFS. The reset values of the block (70_reset R501), and the invariant right after a reset. -/

namespace Sys2Proof.Machine

open Claim

/-- Every register but the constants ID and CAPS and the four of value 1 reads as 0 (70_reset R501). -/
theorem readReg_resetWith_zero (p : Params) {r : Reg}
    (hr : r ∉ [Reg.id, .caps, .strideH, .strideW, .dilH, .dilW]) :
    readReg r (State.resetWith p) = 0#32 := by
  cases r
  case id | caps | strideH | strideW | dilH | dilW => simp at hr
  case ctrl => exact (by decide : ctrlWord Ctrl.reset = 0#32)
  case status => exact (by decide : statusWord Status.reset = 0#32)
  all_goals rfl

/-- The strides and dilations read as 1 (70_reset R501). -/
theorem readReg_resetWith_one (p : Params) :
    ∀ r ∈ [Reg.strideH, .strideW, .dilH, .dilW], readReg r (State.resetWith p) = 1#32 := by
  simp [readReg, State.resetWith, Regs.reset, halfWord]

/-- A 32-bit load of a reserved offset answers 0 (10_state R49). -/
theorem hostRead_reserved {s : State} (hp : s.params.wf = true) {off : Nat}
    (ho : off ∈ reservedOffsets) :
    hostRead (s.params.engineBase + BitVec.ofNat 32 off) .w32 s =
      .next { s with response := .data 0#64 } := by
  simp only [hostRead, targetOf_reserved hp ho]
  rfl

/-- Settles O17, by the classes of registers of R501. -/
theorem resetValuesAreAsStated : Obligations.ResetValuesAreAsStated :=
  ⟨fun p => ⟨rfl, rfl, readReg_resetWith_one p, fun _ _ hr => readReg_resetWith_zero p hr,
      fun hp _ ho => hostRead_reserved (s := State.resetWith p) hp ho, rfl, rfl⟩,
    Params.chosen, by decide, rfl⟩

/-- Settles O60: memory is empty, no flag is set, no command runs. -/
theorem resetMeetsTheInvariant : Obligations.ResetMeetsTheInvariant := by
  have hgood : ∀ p : Params, p.wf = true → (State.resetWith p).good = true := fun p hp =>
    (good_iff _).mpr ⟨rfl, rfl, rfl, rfl, hp⟩
  exact ⟨hgood, hgood Params.chosen (by decide)⟩

end Sys2Proof.Machine
end

section
/-! PROOFS. A hard and a soft reset (70_reset R500, R502, R503): the event is `resetBlock`, which leaves the block
as after power-up and memory as a bus error leaves it. -/

namespace Sys2Proof.Machine

open Claim

/-- A hard reset and a CTRL write with SRST = 1 reset the block (70_reset R500, R503). -/
theorem hostEvent_reset {e : HostEvent} {s : State} (h : IsReset s e) :
    hostEvent e s = .next (resetBlock (respond .done s)) := by
  obtain rfl | ⟨addr, value, rfl, ht, hw⟩ := h
  · rfl
  · simp only [hostEvent, hostWrite, ht, hostWriteReg, writeCtrl, hw, if_true]

theorem isReset_writeEvent {s : State} {w : Word} (hp : s.params.wf = true)
    (hw : w.getLsbD 31 = true) : IsReset s (writeEvent s .ctrl w) :=
  .inr ⟨_, _, rfl, targetOf_reg hp .ctrl, by rwa [setWidth_64_32]⟩

/-- A reset leaves no command running and the events to come as they are (70_reset R502, R503). -/
theorem resetBlock_running_pending (s : State) :
    (resetBlock s).running = none ∧ (resetBlock s).pending = s.pending := by
  obtain ⟨-, h⟩ | ⟨r, -, ⟨-, h⟩ | ⟨-, h⟩⟩ := resetBlock_cases s <;> rw [h] <;> exact ⟨rfl, rfl⟩

/-- After a reset every register reads as after power-up (70_reset R501). -/
theorem readReg_resetBlock (r : Reg) (s : State) :
    readReg r (resetBlock s) = readReg r (State.resetWith s.params) := by
  obtain ⟨hregs, hctrl⟩ := resetBlock_regs_ctrl s
  by_cases hr : r = .status
  · subst hr
    exact congrArg statusWord (resetBlock_status s)
  · exact readReg_congr hr hregs hctrl (resetBlock_params s)

theorem resetBlock_irq (s : State) : (resetBlock s).irq = false := by
  rw [State.irq, resetBlock_status]
  rfl

/-! ## Memory after a reset (70_reset R502) -/

/-- A reset of a running command that the host left alone stores bytes of what is left of it. -/
theorem StoresOf.of_resetBlock {r : Running} {s : State} (hr : s.running = some r)
    (hraced : r.raced = false) : StoresOf (workLeft r s) s (resetBlock s) := by
  rw [resetBlock_running s r hr hraced]
  exact ⟨_, abortedCells_subset s.params s.draws _, rfl, fun _ ht => absurd ht Bool.false_ne_true⟩

/-- A reset leaves every byte outside the write region of the running command alone, raced or not. -/
theorem read_resetBlock_outside {r : Running} {s : State} {a : Nat} (hgood : s.runningGood = true)
    (hr : s.running = some r) (ha : ¬ Writes r.cmd s a) :
    (resetBlock s).mem.read a = s.mem.read a := by
  cases hraced : r.raced
  · obtain ⟨-, hcheck, -, hwrites⟩ := (runningGood_iff s).mp hgood r hr
    refine (StoresOf.of_resetBlock hr hraced).read_other fun c hc => ?_
    rintro rfl
    exact ha ((workLeft_cells hcheck c hc).elim (hwrites c) id)
  · rw [resetBlock_raced s r hr hraced]
    refine Memory.read_writeCells_other _ _ _ fun c hc => ?_
    rintro rfl
    exact ha (undefinedCells_writes c hc)

/-- Settles O18: the step is `resetBlock`, and a command that the host left alone leaves bytes of its work. -/
theorem resetRestoresEveryRegister : Obligations.ResetRestoresEveryRegister := by
  intro s rest e w hp hwf hgood he hd
  set u := respond .done { s with pending := rest }
  have hreset : IsReset { s with pending := rest } e := by
    obtain rfl | ⟨rfl, hw⟩ := he
    · exact .inl rfl
    · exact isReset_writeEvent (s := { s with pending := rest }) hp hw
  have hstep : step s = .next (resetBlock u) := by rw [step_delivered hd, hostEvent_reset hreset]
  obtain ⟨hrunning, hpending⟩ := resetBlock_running_pending u
  refine ⟨_, hstep, fun r => readReg_resetBlock r u, hrunning, resetBlock_irq u, resetBlock_params u,
    hpending, fun hr => ?_, fun r hr a => ⟨fun ha => ?_, fun hraced => ?_⟩⟩
  · rw [resetBlock_idle u hr]
    rfl
  · exact read_resetBlock_outside (s := u) hgood hr ha
  · have hwork : workLeft r u = workLeft r s := workLeft_pending r rest s
    exact hwork ▸ (StoresOf.of_resetBlock (s := u) hr hraced).read_cases hwf a

end Sys2Proof.Machine
end

section
/-! PROOFS. A running command with no event left to wait for ends in the next step (60_exceptions R400, R413). -/

namespace Sys2Proof.Machine

/-- A command the host left alone, none of whose accesses hangs, completes or takes a bus error. -/
theorem endWith_ends {r : Running} {x : Exposed} (work : List WorkUnit) (results : Regs) (s : State)
    (hst : r.stalled = false) (hraced : r.raced = false) (hx : x.hangs = false) :
    endWith r x work results s = .next (completeCommand (workCells work) results s) ∨
      endWith r x work results s = .next (busErrorEnd x.errAddrs work s) := by
  obtain ⟨hs, -⟩ | ⟨-, hh, -⟩ | ⟨-, hr, -⟩ | ⟨-, -, -, -, h⟩ | ⟨-, -, -, h⟩ :=
    endWith_cases r x work results s
  · simp [hst] at hs
  · simp [hx] at hh
  · simp [hraced] at hr
  · exact .inl h
  · exact .inr h

/-- Settles O39: the step is the end event, and it meets no access that hangs. -/
theorem runningCommandEnds : Obligations.RunningCommandEnds := by
  intro s r hr hraced hst hp hh
  rw [step_end_nil s r hp hr]
  have hx : (exposedLeft r s).hangs = false := exposed_hangs_false _ _ _ hh
  obtain h | h := endWith_ends (workLeft r s) (resultRegs r s) s hst hraced hx
  · exact ⟨_, h, rfl, rfl, .inl rfl⟩
  · exact ⟨_, h, rfl, rfl, .inr ⟨rfl, rfl⟩⟩

end Sys2Proof.Machine
end

section
/-! PROOFS. A running command that waits for an access that never ends (70_reset R530): its accesses are a matter
of the registers and the platform, so neither the host nor its own steps end the wait, but a reset does. -/

namespace Sys2Proof.Machine

open Claim

/-! ## The accesses of a command do not depend on memory, nor on ERR_ADDR -/

/-- The accesses of a unit without the bytes it stores. -/
def WorkUnit.bare (u : WorkUnit) : WorkUnit :=
  { u with cells := [] }

theorem convWork_bare_congr {s t : State} {a : Word} (v : Variant) (bias : Bool) (r : Running)
    (h : t.regs = { s.regs with errAddr := a }) :
    (convWork v bias r t).map WorkUnit.bare = (convWork v bias r s).map WorkUnit.bare := by
  have hunit : ∀ e tap lo acc, (convUnit v bias t e tap lo acc).bare =
      (convUnit v bias s e tap lo acc).bare := fun e tap lo acc => by
    simp only [convUnit, WorkUnit.bare, h]
    rfl
  have hcount : convCount t.regs = convCount s.regs := by rw [h]; rfl
  simp only [convWork, hcount, List.map_cons]
  split
  · simp only [List.map_cons, List.map_map, Function.comp_def, hunit]
  · rfl

theorem copyWork_bare_congr {s t : State} {a : Word} (r : Running)
    (h : t.regs = { s.regs with errAddr := a }) :
    (copyWork r t).map WorkUnit.bare = (copyWork r s).map WorkUnit.bare := by
  have hunit : ∀ j, (copyUnit t j).bare = (copyUnit s j).bare := fun j => by
    simp only [copyUnit, WorkUnit.bare, h]
  simp only [copyWork, h, List.map_cons, List.map_map, Function.comp_def, hunit]

theorem workLeft_bare_congr {s t : State} {a : Word} (r : Running)
    (h : t.regs = { s.regs with errAddr := a }) :
    (workLeft r t).map WorkUnit.bare = (workLeft r s).map WorkUnit.bare := by
  unfold workLeft
  cases r.cmd with
  | convS8 | convS16 => exact convWork_bare_congr _ _ r h
  | dotS8 | dotS16 => simp only [dotWork, h]; rfl
  | rqS8 | rqS16 => rfl
  | memcpy => exact copyWork_bare_congr r h

/-- What errs and what hangs is a matter of the accesses alone. -/
theorem workMeets_bare (p : Params) (work : List WorkUnit) :
    workErrAddrs p (work.map WorkUnit.bare) = workErrAddrs p work ∧
      workHangs p (work.map WorkUnit.bare) = workHangs p work := by
  simp only [workErrAddrs, workHangs, List.flatMap_map, List.any_map]
  exact ⟨rfl, rfl⟩

/-- Some access of the work never ends, and none errs. -/
abbrev HangsOnly (p : Params) (work : List WorkUnit) : Prop :=
  workErrAddrs p work = [] ∧ workHangs p work = true

theorem HangsOnly.congr {p : Params} {work work' : List WorkUnit} (h : HangsOnly p work)
    (hbare : work'.map WorkUnit.bare = work.map WorkUnit.bare) : HangsOnly p work' := by
  obtain ⟨herr, hhang⟩ := workMeets_bare p work'
  obtain ⟨herr', hhang'⟩ := workMeets_bare p work
  rw [HangsOnly, ← herr, ← hhang, hbare, herr', hhang']
  exact h

/-- The mark of a race and an acknowledgement do not end the wait. -/
theorem silent_congr {r r' : Running} {s t : State} {a : Word} (h : Silent r s)
    (hregs : t.regs = { s.regs with errAddr := a }) (hparams : t.params = s.params)
    (hr : r' = r ∨ r' = { r with raced := true }) : Silent r' t := by
  have hbare := workLeft_bare_congr r hregs
  obtain rfl | rfl := hr
  · exact h.imp_right fun h => hparams ▸ HangsOnly.congr h hbare
  · exact h.imp_right fun h => workLeft_raced r t ▸ hparams ▸ HangsOnly.congr h hbare

theorem silent_of_same_regs {r : Running} {s t : State} (h : Silent r s) (hregs : t.regs = s.regs)
    (hparams : t.params = s.params) : Silent r t :=
  silent_congr h (a := s.regs.errAddr) hregs hparams (.inl rfl)

/-! ## Host events while the command waits -/

/-- The running command is the same, but for the mark of a race. -/
abbrev RacedAtMost (o o' : Option Running) : Prop :=
  o' = o ∨ ∃ r, o = some r ∧ o' = some { r with raced := true }

theorem racedAtMost_markRace (touches : Running → Bool) (s : State) :
    RacedAtMost s.running (markRace touches s).running := by
  obtain h | ⟨r, hr, -, h⟩ := markRace_cases touches s <;> rw [h]
  · exact .inl rfl
  · exact .inr ⟨r, hr, rfl⟩

theorem racedAtMost_strayAccess (touches : Running → Bool) (q : Region) (s : State) :
    RacedAtMost s.running (strayAccess touches q s).running := by
  obtain h | ⟨r, hr, -, -, h⟩ := strayAccess_cases touches q s <;> rw [h]
  · exact .inl rfl
  · exact .inr ⟨r, hr, rfl⟩

theorem racedAtMost_hostRead {addr : Word} {w : Width} {s t : State}
    (h : hostRead addr w s = .next t) : RacedAtMost s.running t.running := by
  obtain ⟨-, rfl⟩ | ⟨-, rfl⟩ | ⟨r, -, rfl⟩ | ⟨-, h⟩ := hostRead_next h
  · exact racedAtMost_strayAccess _ _ s
  · exact .inl rfl
  · unfold hostReadReg
    split <;> exact .inl rfl
  · obtain rfl | rfl := hostReadData_next h <;> exact racedAtMost_markRace _ s

/-- While BUSY = 1 a register write that is no reset leaves the running command alone (10_state R51). -/
theorem hostWriteReg_running {r : Reg} {w : Word} {s t : State} (hb : s.status.busy = true)
    (h : hostWriteReg r w s = .next t) (ht : t.status.busy = true) : t.running = s.running := by
  obtain ⟨-, h⟩ | ⟨-, rfl⟩ | ⟨-, -, -, rfl⟩ | ⟨-, -, -, rfl⟩ := hostWriteReg_next h
  · obtain ⟨-, rfl⟩ | ⟨-, -, rfl⟩ | ⟨-, hidle, -⟩ | ⟨-, -, -, rfl⟩ := writeCtrl_next h
    · simp [Status.reset] at ht
    · rfl
    · simp [hb] at hidle
    · rfl
  · rfl
  · rfl
  · rfl

theorem racedAtMost_hostWrite {addr : Word} {w : Width} {value : BitVec 64} {s t : State}
    (hb : s.status.busy = true) (h : hostWrite addr w value s = .next t)
    (ht : t.status.busy = true) : RacedAtMost s.running t.running := by
  obtain ⟨-, rfl⟩ | ⟨-, rfl⟩ | ⟨r, -, h⟩ | ⟨-, h⟩ := hostWrite_next h
  · exact racedAtMost_strayAccess _ _ s
  · exact .inl rfl
  · exact .inl (hostWriteReg_running (s := respond .done s) hb h ht)
  · obtain rfl | rfl := hostWriteData_next h <;> exact racedAtMost_markRace _ s

theorem racedAtMost_hostClean (q : Region) (s : State) :
    RacedAtMost s.running (hostClean q s).running := by
  unfold hostClean
  split
  · exact .inl rfl
  · exact racedAtMost_markRace _ s

/-- A host event that leaves BUSY = 1 leaves the running command, or marks a race (20_memory R122). -/
theorem racedAtMost_hostEvent {e : HostEvent} {s t : State} (hb : s.status.busy = true)
    (h : hostEvent e s = .next t) (ht : t.status.busy = true) :
    RacedAtMost s.running t.running := by
  cases e with
  | read addr w => exact racedAtMost_hostRead h
  | write addr w value => exact racedAtMost_hostWrite hb h ht
  | clean addr size => cases h; exact racedAtMost_hostClean _ s
  | invalidate addr size => cases h; exact .inl (hostInvalidate_running _ s)
  | hardReset => cases h; simp [Status.reset] at ht

/-- The same command waits, with BUSY = 1 (70_reset R530). -/
abbrev StillWaits (r : Running) (t : State) : Prop :=
  t.status.busy = true ∧ ∃ r', t.running = some r' ∧ r'.cmd = r.cmd ∧ Silent r' t

/-- A host event leaves the command waiting, or is a reset. -/
theorem hostEvent_stillWaits {e : HostEvent} {r : Running} {s t : State} (hr : s.running = some r)
    (hb : s.status.busy = true) (hsilent : Silent r s) (h : hostEvent e s = .next t) :
    StillWaits r t ∨ IsReset s e := by
  cases ht : t.status.busy
  · exact .inr (hostEvent_ended hb h ht).1
  · left
    have hregs := (hostEvent_operandsKept hr hb h ht).regs
    have hparams := hostEvent_params h
    obtain hrun | ⟨r₀, hr₀, hrun⟩ := racedAtMost_hostEvent hb h ht
    · exact ⟨ht, r, hrun.trans hr, rfl, silent_congr hsilent hregs hparams (.inl rfl)⟩
    · cases hr.symm.trans hr₀
      exact ⟨ht, _, hrun, rfl, silent_congr hsilent hregs hparams (.inr rfl)⟩

/-! ## The end event -/

/-- Work of which some access hangs and none errs is met so (70_reset R530). -/
theorem HangsOnly.exposed {p : Params} {work : List WorkUnit} (h : HangsOnly p work) (w : Nat) :
    (exposed p w work).errAddrs = [] ∧ (exposed p w work).hangs = true := by
  obtain ⟨herr, hhang⟩ := h
  have hnone : (Machine.exposed p w work).errAddrs = [] :=
    List.eq_nil_iff_forall_not_mem.mpr fun a ha => by
      simpa [herr] using exposed_errAddrs_subset p w work a ha
  refine ⟨hnone, (exposed_met p w work ?_).resolve_left (absurd hnone)⟩
  by_contra hall
  simp [((answers_all_iff p work).mp (by simpa using hall)).2] at hhang

/-- A command that has stalled, or meets only an access that hangs, is recorded as stalled. -/
theorem endWith_waits {r : Running} {x : Exposed} (work : List WorkUnit) (results : Regs) {s : State}
    (hr : s.running = some r) (hx : r.stalled = true ∨ x.errAddrs = [] ∧ x.hangs = true) :
    endWith r x work results s = .next (stallCommand r s) := by
  cases hst : r.stalled
  · obtain ⟨herr, hhang⟩ := hx.resolve_left (by simp [hst])
    exact endWith_hangs r x work results s hst herr hhang
  · have hsame : stallCommand r s = s := by rw [stallCommand, ← hst, ← hr]
    simp only [endWith, hst, if_true, hsame]

theorem endCommand_waits {r : Running} {s : State} (hr : s.running = some r) (h : Silent r s) :
    endCommand r s = .next (stallCommand r s) :=
  endWith_waits _ _ hr (h.imp_right fun h => HangsOnly.exposed h _)

/-! ## An internal step -/

/-- What a MEMCPY or a DOT has left after some of its units is among what it had left before. -/
theorem map_range'_drop_subset {f : Nat → WorkUnit} (lo : Nat) {m n : Nat} (h : m ≤ n) :
    (List.range' (lo + m) (n - m)).map f ⊆ (List.range' lo n).map f := by
  rw [range'_split lo h, List.map_append]
  exact List.subset_append_right _ _

theorem WorkUnit.PartOf.of_mem {u : WorkUnit} {work : List WorkUnit} (h : u ∈ work) : u.PartOf work :=
  ⟨fun _ hx => ⟨u, h, hx⟩, fun _ hx => ⟨u, h, hx⟩⟩

/-- The writes already issued make no access. -/
theorem WorkUnit.PartOf.issued (cells : List Host.Cell) (work : List WorkUnit) :
    WorkUnit.PartOf ⟨[], [], cells⟩ work :=
  ⟨by simp, by simp⟩

theorem dotWork_dotTurn_partOf (v : Variant) (ask : Nat) (r : Running) (s : State) :
    ∀ u ∈ dotWork v (dotTurn v ask r s) s, u.PartOf (dotWork v r s) := by
  intro u hu
  refine .of_mem ?_
  unfold dotTurn at hu
  split at hu
  next h =>
    have hle := granted_le (ask := ask) (vlmax := v.vlmax s.params) (Nat.sub_pos_of_lt h)
    rw [dotWork, ← Nat.sub_sub] at hu
    exact map_range'_drop_subset _ hle hu
  next => exact hu

theorem copyWork_copyTurn_partOf (ask : Nat) (r : Running) (s : State) :
    ∀ u ∈ copyWork (copyTurn ask r s) s, u.PartOf (copyWork r s) := by
  intro u hu
  unfold copyTurn at hu
  split at hu
  next h =>
    have hle := granted_le (ask := ask) (vlmax := s.params.vlb.toNat) (Nat.sub_pos_of_lt h)
    rw [copyWork, ← Nat.sub_sub] at hu
    obtain rfl | hu := List.mem_cons.mp hu
    · exact .issued _ _
    · exact .of_mem (List.mem_cons_of_mem _ (map_range'_drop_subset _ hle hu))
  next => exact .of_mem hu

/-- What a convolution has left after a step is its issued writes, what was left of the element in progress, or
a unit left before. -/
theorem convWork_convTurn_partOf (v : Variant) (bias : Bool) (ask : Nat) (r : Running) (s : State) :
    ∀ u ∈ convWork v bias (convTurn v bias ask r s) s, u.PartOf (convWork v bias r s) := by
  intro u hu
  unfold convTurn at hu
  split_ifs at hu with he ht hin
  · have hle := granted_le (ask := ask) (vlmax := v.vlmax s.params) (Nat.sub_pos_of_lt hin.2)
    rw [convWork_of_lt (he := by exact he)] at hu
    rw [convWork_of_lt v bias r s he, convUnit_vectorStep r.acc ht hin.1 hin.2 hle]
    obtain rfl | hu := List.mem_cons.mp hu
    · exact .issued _ _
    obtain rfl | hu := List.mem_cons.mp hu
    · exact ⟨fun x hx => ⟨_, List.mem_cons_of_mem _ List.mem_cons_self, List.mem_append_right _ hx⟩,
        fun x hx => ⟨_, List.mem_cons_of_mem _ List.mem_cons_self, hx⟩⟩
    · exact .of_mem (List.mem_cons_of_mem _ (List.mem_cons_of_mem _ hu))
  · refine .of_mem ?_
    rw [convWork_of_lt (he := by exact he)] at hu
    rwa [convWork_of_lt v bias r s he, convUnit_nextTap r.acc ht hin]
  · rw [convWork_fresh v bias _ s rfl rfl rfl] at hu
    rw [convWork_of_lt v bias r s he]
    obtain rfl | hu := List.mem_cons.mp hu
    · exact .issued _ _
    · exact .of_mem (List.mem_cons_of_mem _ (List.mem_cons_of_mem _ hu))
  · exact .of_mem hu

theorem workLeft_turnRunning_partOf (ask : Nat) (r : Running) (s : State) :
    ∀ u ∈ workLeft (turnRunning ask r s) s, u.PartOf (workLeft r s) := by
  unfold workLeft
  rw [turnRunning_cmd]
  unfold turnRunning
  cases r.cmd with
  | convS8 | convS16 => exact convWork_convTurn_partOf _ _ ask r s
  | dotS8 | dotS16 => exact dotWork_dotTurn_partOf _ ask r s
  | rqS8 | rqS16 => exact fun _ => .of_mem
  | memcpy => exact copyWork_copyTurn_partOf ask r s

/-- A unit made of accesses of which none errs does not err. -/
theorem WorkUnit.PartOf.errAddrs {p : Params} {u : WorkUnit} {work : List WorkUnit}
    (h : u.PartOf work) (hnone : workErrAddrs p work = []) : u.errAddrs p = [] := by
  have hunit : ∀ w ∈ work, w.readErrAddrs p = [] ∧ w.writeErrAddrs p = [] := fun w hw =>
    List.append_eq_nil_iff.mp (List.flatMap_eq_nil_iff.mp hnone w hw)
  refine List.append_eq_nil_iff.mpr
    ⟨List.flatMap_eq_nil_iff.mpr fun x hx => ?_, List.flatMap_eq_nil_iff.mpr fun x hx => ?_⟩
  · obtain ⟨w, hw, hx⟩ := h.reads x hx
    exact List.flatMap_eq_nil_iff.mp (hunit w hw).1 x hx
  · obtain ⟨w, hw, hx⟩ := h.writes x hx
    exact List.flatMap_eq_nil_iff.mp (hunit w hw).2 x hx

section
variable {ask : Nat} {r : Running} {s : State} (h : HangsOnly s.params (workLeft r s))
include h

/-- After a step whose accesses answer, the access that hangs is still to come. -/
theorem hangsOnly_turnRunning (hu : (turnUnit ask r s).answers s.params = true) :
    HangsOnly s.params (workLeft (turnRunning ask r s) s) := by
  have hmet := ((turnUnit_stepsTo ask r s).endsAlike hu).met 1
  refine ⟨List.flatMap_eq_nil_iff.mpr fun u hmem =>
    (workLeft_turnRunning_partOf ask r s u hmem).errAddrs h.1, ?_⟩
  by_contra hnot
  have hhang := (HangsOnly.exposed h 1).2
  rw [← hmet, exposed_hangs_false _ _ _ (Bool.eq_false_iff.mpr hnot)] at hhang
  cases hhang

/-- A step whose accesses do not all answer meets the access that hangs. -/
theorem hangsOnly_turnUnit (hu : (turnUnit ask r s).answers s.params = false) :
    HangsOnly s.params [turnUnit ask r s] := by
  have herr : (turnUnit ask r s).errAddrs s.params = [] := (turnUnit_partOf ask r s).errAddrs h.1
  refine ⟨by simp [workErrAddrs, herr], ?_⟩
  simpa [WorkUnit.answers, herr, workHangs] using hu

end

/-- An internal step leaves the command waiting, and changes nothing else. -/
theorem engineTurn_waits {ask : Nat} {r : Running} {s : State} (hr : s.running = some r)
    (h : Silent r s) : ∃ r', engineTurn ask r s = .next { s with running := some r' } ∧
      r'.cmd = r.cmd ∧ Silent r' s := by
  obtain ⟨hst, h'⟩ | ⟨hst, hu, h'⟩ | ⟨hst, hu, h'⟩ := engineTurn_cases ask r s <;> rw [h']
  · exact ⟨r, by rw [← hr], rfl, h⟩
  · exact ⟨_, rfl, turnRunning_cmd ask r s,
      .inr (hangsOnly_turnRunning (h.resolve_left (by simp [hst])) hu)⟩
  · have hx := HangsOnly.exposed (hangsOnly_turnUnit (h.resolve_left (by simp [hst])) hu) 1
    exact ⟨_, endWith_waits _ _ hr (.inr hx), rfl, .inl rfl⟩

/-- A step of the engine leaves the command waiting (70_reset R530). -/
theorem step_engine_waits {r : Running} {s : State} (hr : s.running = some r)
    (hb : s.status.busy = true) (h : Silent r s) (he : EngineEvent s) :
    ∃ t, step s = .next t ∧ StillWaits r t := by
  obtain ⟨ask, rest, -, hstep⟩ | ⟨-, hstep⟩ := step_engineEvent hr he <;> rw [hstep]
  · obtain ⟨r', hturn, hcmd, hwaits⟩ := engineTurn_waits (ask := ask) (s := { s with pending := rest })
      hr (silent_of_same_regs h rfl rfl)
    exact ⟨_, hturn, hb, r', rfl, hcmd, silent_of_same_regs hwaits rfl rfl⟩
  · exact ⟨_, endCommand_waits hr h, hb, _, rfl, rfl, .inl rfl⟩

/-- Settles O40: a step of the engine only waits, a host event waits with it or is a reset. -/
theorem silentBusStallsUntilReset : Obligations.SilentBusStallsUntilReset := by
  intro s r hr hb hsilent
  have hduring : EngineEvent s ∨ ∃ e rest, s.pending = .during e :: rest := by
    simpa only [EngineEvent, not_forall, not_not] using em (EngineEvent s)
  refine ⟨fun f hf => ?_, fun t ht => ?_, fun e rest hp => ?_, fun e rest hp hreset => ?_⟩
  · obtain he | ⟨e, rest, hp⟩ := hduring
    · obtain ⟨t, ht, -⟩ := step_engine_waits hr hb hsilent he
      cases ht.symm.trans hf
    · rw [step_during s e rest hp] at hf
      have hidle : s.status.busy = false := (hostEvent_fault hf).2.1
      simp [hb] at hidle
  · obtain he | ⟨e, rest, hp⟩ := hduring
    · obtain ⟨t', ht', hwaits⟩ := step_engine_waits hr hb hsilent he
      cases ht'.symm.trans ht
      exact .inl hwaits
    · rw [step_during s e rest hp] at ht
      exact (hostEvent_stillWaits (s := { s with pending := rest }) hr hb
        (silent_of_same_regs hsilent rfl rfl) ht).imp_right fun hreset => ⟨e, rest, hp, hreset⟩
  · have hend : step s = endCommand r s :=
      hp.elim (step_end_nil s r · hr) (step_end_host s r e rest · hr)
    exact hend.trans (endCommand_waits hr hsilent)
  · refine ⟨_, (step_during s e rest hp).trans (hostEvent_reset hreset), ?_, ?_⟩
    · rw [resetBlock_status]
      rfl
    · exact (resetBlock_running_pending _).1

end Sys2Proof.Machine
end
